-- ==== Sys2Proof/Word.lean ====
section
/-! DEFINITION. The word types of the RFSB-509 hash core (00_scope.md R9, R11, R14). -/

namespace Sys2Proof

/-- A byte (R11). -/
abbrev Byte := BitVec 8

/-- A 16-bit operand (R301, field IMM16). -/
abbrev Half := BitVec 16

/-- A 32-bit word of the output filter (R9, COMPRESS_WORDS). -/
abbrev Word32 := BitVec 32

/-- A 64-bit word: a limb, a host register or a command word (R9, R105, R300). -/
abbrev Word := BitVec 64

/-- A column: ten 64-bit limbs, limb 0 least significant (R14). -/
abbrev Column := Vector Word 10

/-- One cipher block of 16 bytes (R9, BLOCK_SIZE). -/
abbrev Block := Vector Byte 16

/-- The HashState of 128 bytes (R141). -/
abbrev HashState := Vector Byte 128

/-- A 48-byte chunk of input (R9, CHUNK_BYTES). -/
abbrev Chunk := Vector Byte 48

/-- The eight 32-bit words of the running digest (R560). -/
abbrev Digest8 := Vector Word32 8

/-- An offset of MSTORE, 0 to 16,399 (R200): no other offset exists. -/
abbrev MOffset := Fin 16400

end Sys2Proof
end

