-- ==== Sys2Proof/Machine/Operands.lean ====
section
/-! DEFINITION. Byte-order primitives (00_scope.md R12), the byte mapping of the byte-array registers
(10_state.md R109) and operand assembly (30_encoding.md R303). -/

namespace Sys2Proof.Machine

/-- LE64 of eight bytes, byte 0 least significant (R12). -/
def le64 (b : Fin 8 → Byte) : Word :=
  b 7 ++ b 6 ++ b 5 ++ b 4 ++ b 3 ++ b 2 ++ b 1 ++ b 0

/-- Byte `k` of a little-endian word of any width: bits 8k+7 to 8k (R12, LE64bytes and LE128bytes). -/
def leByte {n : Nat} (x : BitVec n) (k : Nat) : Byte :=
  x.extractLsb' (8 * k) 8

/-- LE64bytes (R12). -/
def le64Bytes (x : Word) : List Byte :=
  (List.range 8).map (leByte x)

/-- LE128bytes: a 128-bit value as a cipher block, least significant byte first (R12, R423). -/
def le128Bytes (x : BitVec 128) : Block :=
  Vector.ofFn fun i => leByte x i.val

/-- LE128 of a block, byte 0 least significant (R12). -/
def le128 (b : Block) : BitVec 128 :=
  le64 (fun k => b[8 + k.val]) ++ le64 (fun k => b[k.val])

/-- BE32 of four bytes, byte 0 most significant (R12). -/
def be32 (b : Fin 4 → Byte) : Word32 :=
  b 0 ++ b 1 ++ b 2 ++ b 3

/-- Byte `k` (0 to 3) of BE32bytes: bits 8(3-k)+7 to 8(3-k) (R12). -/
def beByte (x : Word32) (k : Nat) : Byte :=
  x.extractLsb' (8 * (3 - k)) 8

/-- Register NAMEk of a byte array `a`: LE64 of bytes 8k to 8k+7 (R109). -/
def arrayWord {m : Nat} (a : Vector Byte (8 * m)) (k : Fin m) : Word :=
  le64 fun i => a[8 * k.val + i.val]

/-- A host write of `x` to register NAMEk of a byte array: bytes 8k to 8k+7 become LE64bytes(x)
(R109). -/
def setArrayWord {m : Nat} (a : Vector Byte (8 * m)) (k : Fin m) (x : Word) : Vector Byte (8 * m) :=
  Vector.ofFn fun i => if i.val / 8 = k.val then leByte x (i.val % 8) else a[i]

/-- The OPC field, bits 7 to 0 (R301). -/
def opcOf (w : Word) : Byte := w.extractLsb' 0 8

/-- The IMM8 field, bits 15 to 8, used unchanged as a byte (R301, R303). -/
def imm8Of (w : Word) : Byte := w.extractLsb' 8 8

/-- The IMM16 field, bits 31 to 16, used unchanged as a 16-bit word (R301, R303). -/
def imm16Of (w : Word) : Half := w.extractLsb' 16 16

/-- The RSV field, bits 63 to 32 (R301). -/
def rsvOf (w : Word) : BitVec 32 := w.extractLsb' 32 32

/-- The word with the four fields given (R301). -/
def wordOfFields (rsv : BitVec 32) (imm16 : Half) (imm8 : Byte) (opc : Byte) : Word :=
  rsv ++ imm16 ++ imm8 ++ opc

end Sys2Proof.Machine
end

