-- ==== Sys2Proof/Syntax.lean ====
section
/-! DEFINITION. The command set: one constructor per row of spec/opcode_table.json (30_encoding.md R304). -/

namespace Sys2Proof

/-- The thirteen commands (R304) with their operand, as the decoder of R305 gives it: `r` and `pos`
are bytes (IMM8), `idx` a 16-bit word (IMM16). -/
inductive Instr where
  /-- NOP (R400). -/
  | nop
  /-- INIT: open a hash context (R402). -/
  | init
  /-- ABSORB: mix one full chunk (R525). -/
  | absorb
  /-- FINAL r: pad, mix, filter (R580). -/
  | final (r : Byte)
  /-- GEN_MATRIX: write the table G into MSTORE (R463). -/
  | genMatrix
  /-- MREAD idx: read one word of MSTORE (R465). -/
  | mread (idx : Half)
  /-- AES_ENC: the fixed-key cipher on PT (R430). -/
  | aesEnc
  /-- COL_LOAD_V pos (R510). -/
  | colLoadV (pos : Byte)
  /-- COL_LOAD_W pos (R511). -/
  | colLoadW (pos : Byte)
  /-- COL_MULX (R512). -/
  | colMulx
  /-- COL_ADD (R513). -/
  | colAdd
  /-- COL_REDUCE (R514). -/
  | colReduce
  /-- COL_STEP pos (R515). -/
  | colStep (pos : Byte)
  deriving DecidableEq, Repr

end Sys2Proof
end

