-- ==== Sys2Proof/WellFormed.lean ====
section
/-! DEFINITION. The legal operand ranges of R304 and R306, which are no part of the encoding. -/

namespace Sys2Proof

/-- An operand in its legal range: FINAL takes 0 to 47, MREAD 0 to 2049, every `pos` is legal (R304,
R306). The block refuses the others at issue with BAD_OPERAND (R603). -/
def Instr.WellFormed : Instr → Bool
  | .nop => true
  | .init => true
  | .absorb => true
  | .final r => decide (r.toNat ≤ 47)
  | .genMatrix => true
  | .mread idx => decide (idx.toNat ≤ 2049)
  | .aesEnc => true
  | .colLoadV _ => true
  | .colLoadW _ => true
  | .colMulx => true
  | .colAdd => true
  | .colReduce => true
  | .colStep _ => true

end Sys2Proof
end

