-- ==== Sys2Proof/Decode.lean ====
section
/-! DEFINITION. The decoder of 30_encoding.md R305, the encoder of R304, and the opcode table's rows. -/

namespace Sys2Proof

open Machine

/-- Why a word decodes to ILLEGAL: the two kinds of R307. -/
inductive Illegal where
  /-- OPC is not one of the thirteen codes of R304. -/
  | unassignedOpc
  /-- A bit outside the format's operand field is not zero (R302). -/
  | nonzeroBits
  deriving DecidableEq, Repr

/-- What the decoder gives on a word: a command with its operand, or ILLEGAL (R305). -/
inductive Decoded where
  | command (i : Instr)
  | illegal (why : Illegal)
  deriving DecidableEq, Repr

/-- Format N: no operand, bits 63 to 8 zero (R302, R305). -/
def decodeN (w : Word) (i : Instr) : Decoded :=
  if w.extractLsb' 8 56 = 0 then .command i else .illegal .nonzeroBits

/-- Format B: a byte operand, bits 63 to 16 zero (R302, R305). -/
def decodeB (w : Word) (mk : Byte → Instr) : Decoded :=
  if w.extractLsb' 16 48 = 0 then .command (mk (imm8Of w)) else .illegal .nonzeroBits

/-- Format H: a halfword operand, bits 63 to 32 and 15 to 8 zero (R302, R305). -/
def decodeH (w : Word) (mk : Half → Instr) : Decoded :=
  if rsvOf w = 0 ∧ imm8Of w = 0 then .command (mk (imm16Of w)) else .illegal .nonzeroBits

/-- The decoder, total on every 64-bit word (R305). -/
def decode (w : Word) : Decoded :=
  match (opcOf w).toNat with
  | 0x00 => decodeN w .nop
  | 0x01 => decodeN w .init
  | 0x02 => decodeN w .absorb
  | 0x03 => decodeB w .final
  | 0x10 => decodeN w .genMatrix
  | 0x11 => decodeH w .mread
  | 0x20 => decodeN w .aesEnc
  | 0x30 => decodeB w .colLoadV
  | 0x31 => decodeB w .colLoadW
  | 0x32 => decodeN w .colMulx
  | 0x33 => decodeN w .colAdd
  | 0x34 => decodeN w .colReduce
  | 0x35 => decodeB w .colStep
  | _ => .illegal .unassignedOpc

/-- A word of format N (R302). -/
def encodeN (opc : Byte) : Word := wordOfFields 0 0 0 opc

/-- A word of format B (R302). -/
def encodeB (opc : Byte) (imm8 : Byte) : Word := wordOfFields 0 0 imm8 opc

/-- A word of format H (R302). -/
def encodeH (opc : Byte) (imm16 : Half) : Word := wordOfFields 0 imm16 0 opc

/-- The word of a command (R304). -/
def encode : Instr → Word
  | .nop => encodeN 0x00
  | .init => encodeN 0x01
  | .absorb => encodeN 0x02
  | .final r => encodeB 0x03 r
  | .genMatrix => encodeN 0x10
  | .mread idx => encodeH 0x11 idx
  | .aesEnc => encodeN 0x20
  | .colLoadV pos => encodeB 0x30 pos
  | .colLoadW pos => encodeB 0x31 pos
  | .colMulx => encodeN 0x32
  | .colAdd => encodeN 0x33
  | .colReduce => encodeN 0x34
  | .colStep pos => encodeB 0x35 pos

/-- The mask of the fixed bits of format N (R302). -/
def maskN : Word := 0xFFFFFFFFFFFFFFFF

/-- The mask of the fixed bits of format B (R302). -/
def maskB : Word := 0xFFFFFFFFFFFF00FF

/-- The mask of the fixed bits of format H (R302). -/
def maskH : Word := 0xFFFFFFFF0000FFFF

/-- The rows of spec/opcode_table.json, each a mnemonic, a match and a mask (R304). -/
def opcodeTable : List (String × Word × Word) :=
  [("NOP", 0x00, maskN), ("INIT", 0x01, maskN), ("ABSORB", 0x02, maskN), ("FINAL", 0x03, maskB),
   ("GEN_MATRIX", 0x10, maskN), ("MREAD", 0x11, maskH), ("AES_ENC", 0x20, maskN),
   ("COL_LOAD_V", 0x30, maskB), ("COL_LOAD_W", 0x31, maskB), ("COL_MULX", 0x32, maskN),
   ("COL_ADD", 0x33, maskN), ("COL_REDUCE", 0x34, maskN), ("COL_STEP", 0x35, maskB)]

/-- The mnemonic of a command (R304). -/
def Instr.mnemonic : Instr → String
  | .nop => "NOP"
  | .init => "INIT"
  | .absorb => "ABSORB"
  | .final _ => "FINAL"
  | .genMatrix => "GEN_MATRIX"
  | .mread _ => "MREAD"
  | .aesEnc => "AES_ENC"
  | .colLoadV _ => "COL_LOAD_V"
  | .colLoadW _ => "COL_LOAD_W"
  | .colMulx => "COL_MULX"
  | .colAdd => "COL_ADD"
  | .colReduce => "COL_REDUCE"
  | .colStep _ => "COL_STEP"

/-- The command word of `nbits` bits with value `w`, the bits above them zero; every command is one
64-bit word (R300). -/
def tableWord (nbits w : Nat) : Word := BitVec.ofNat 64 (w % 2 ^ nbits)

/-- The instruction the decoder reads from a word given as the opcode table numbers its bits; a command
word is one 64-bit word (R300), so a longer one is refused. -/
def decodeTableWord (nbits w : Nat) : Option Instr :=
  if w % 2 ^ nbits < 2 ^ 64 then
    match decode (tableWord nbits w) with
    | .command i => some i
    | .illegal _ => none
  else none

end Sys2Proof
end

