-- ==== Sys2Proof/Config.lean ====
section
/-! DEFINITION. The OPEN parameters of R10 and the free values of 93_implementation_defined.md. None of
the opaque constants has a body that Lean can unfold, so a theorem holds whatever their values are. -/

namespace Sys2Proof

/-- The two values of the parameter MATRIX_AT_RESET (R10, 92 D7). -/
inductive MatrixAtReset where
  | empty
  | preloaded
  deriving DecidableEq, Repr, Inhabited

/-- MATRIX_AT_RESET: a build option of the block, left open (R10, I6). Log 6. -/
opaque Config.matrixAtReset : MatrixAtReset

/-- MATRIX_TAIL: the 16 constant bytes at MSTORE offsets 16,384 to 16,399, left open (R201, I1).
Log 5. -/
opaque Config.matrixTail : Fin 16 → Byte

/-- The byte that MSTORE holds at an offset nothing has written since hardware reset number `epoch`: a
free value (R161, I2). Log 7. -/
opaque Config.mstoreDraw (epoch : Nat) (offset : Nat) : Byte

/-- The value that read number `draws` of a register of R107 returns while `busy = 1`: a free value,
fresh for each read (I3). Log 8. -/
opaque Config.readDraw (draws : Nat) : Word

/-- LATENCY of accepted command number `issued`, counted in host accesses that are performed before
the engine's step; finite, no bound given (R10, R104, R741, I4). Log 1. -/
opaque Config.latency (issued : Nat) : Nat

/-- BASE: the host address of the register window, left to the platform (R10, R213, I5). Log 10. -/
opaque Config.base : Nat

end Sys2Proof
end

