-- ==== Sys2Proof/Machine/Aes.lean ====
section
/-! DEFINITION. CIPH: AES-128 encryption under the all-zero key, a pure total function (41_cipher.md
R420 to R427). The cipher state is kept flat, byte r + 4c being s[r][c] (R423). -/

namespace Sys2Proof.Machine

/-- The S-box table of R425: line `h` is row `h`, its entries `l` = 0 to f from left to right. -/
def sboxRows : List (BitVec 128) :=
  [0x637c777bf26b6fc53001672bfed7ab76,
   0xca82c97dfa5947f0add4a2af9ca472c0,
   0xb7fd9326363ff7cc34a5e5f171d83115,
   0x04c723c31896059a071280e2eb27b275,
   0x09832c1a1b6e5aa0523bd6b329e32f84,
   0x53d100ed20fcb15b6acbbe394a4c58cf,
   0xd0efaafb434d338545f9027f503c9fa8,
   0x51a3408f929d38f5bcb6da2110fff3d2,
   0xcd0c13ec5f974417c4a77e3d645d1973,
   0x60814fdc222a908846eeb814de5e0bdb,
   0xe0323a0a4906245cc2d3ac629195e479,
   0xe7c8376d8dd54ea96c56f4ea657aae08,
   0xba78252e1ca6b4c6e8dd741f4bbd8b8a,
   0x703eb5664803f60e613557b986c11d9e,
   0xe1f8981169d98e949b1e87e9ce5528df,
   0x8ca1890dbfe6426841992d0fb054bb16]

/-- Byte `i` (0 to 15) of 16 bytes written in hexadecimal with byte 0 first. -/
def hexByte (x : BitVec 128) (i : Nat) : Byte := x.extractLsb' (8 * (15 - i)) 8

/-- The S-box: the entry in row `h` and column `l` is S(0xhl) (R425). -/
def sbox (a : Byte) : Byte :=
  hexByte (sboxRows.getD (a.toNat / 16) 0) (a.toNat % 16)

/-- Multiplication by 2 in GF(2^8) (R424). -/
def xtime (a : Byte) : Byte := (a <<< 1) ^^^ (if a.msb then 0x1B else 0)

/-- Multiplication by 3 in GF(2^8) (R424). -/
def mul3 (a : Byte) : Byte := xtime a ^^^ a

/-- The eleven round keys of the all-zero key, RK[0] first, byte 0 first (R426). -/
def roundKeys : List (BitVec 128) :=
  [0x00000000000000000000000000000000,
   0x62636363626363636263636362636363,
   0x9b9898c9f9fbfbaa9b9898c9f9fbfbaa,
   0x90973450696ccffaf2f457330b0fac99,
   0xee06da7b876a1581759e42b27e91ee2b,
   0x7f2e2b88f8443e098dda7cbbf34b9290,
   0xec614b851425758c99ff09376ab49ba7,
   0x217517873550620bacaf6b3cc61bf09b,
   0x0ef903333ba9613897060a04511dfa9f,
   0xb1d4d8e28a7db9da1d7bb3de4c664941,
   0xb4ef5bcb3e92e21123e951cf6f8f188e]

/-- Byte `i` of round key `k` (R426). -/
def roundKeyByte (k i : Nat) : Byte := hexByte (roundKeys.getD k 0) i

/-- AddRoundKey with round key `k`: s[r][c] ^= RK[k][r + 4c] (R426, R427). -/
def addRoundKey (s : Block) (k : Nat) : Block :=
  Vector.ofFn fun i => s[i] ^^^ roundKeyByte k i.val

/-- SubBytes (R427). -/
def subBytes (s : Block) : Block := s.map sbox

/-- ShiftRows: s'[r][c] = s[r][(c + r) mod 4] (R427). -/
def shiftRows (s : Block) : Block :=
  Vector.ofFn fun i => s[i.val % 4 + 4 * ((i.val / 4 + i.val % 4) % 4)]

/-- MixColumns of one column, rows 0 to 3 (R427). -/
def mixColumn (a0 a1 a2 a3 : Byte) : Vector Byte 4 :=
  #v[xtime a0 ^^^ mul3 a1 ^^^ a2 ^^^ a3,
     a0 ^^^ xtime a1 ^^^ mul3 a2 ^^^ a3,
     a0 ^^^ a1 ^^^ xtime a2 ^^^ mul3 a3,
     mul3 a0 ^^^ a1 ^^^ a2 ^^^ xtime a3]

/-- MixColumns (R427). -/
def mixColumns (s : Block) : Block :=
  Vector.ofFn fun i =>
    (mixColumn s[4 * (i.val / 4)] s[4 * (i.val / 4) + 1]
      s[4 * (i.val / 4) + 2] s[4 * (i.val / 4) + 3])[i.val % 4]

/-- One of rounds 1 to 9 (R427). -/
def aesRound (s : Block) (round : Nat) : Block :=
  addRoundKey (mixColumns (shiftRows (subBytes s))) round

/-- Round 10, without MixColumns (R427). -/
def aesLastRound (s : Block) : Block :=
  addRoundKey (shiftRows (subBytes s)) 10

/-- E: AES-128 encryption under the all-zero key (R420, R427). -/
def aesZero (input : Block) : Block :=
  aesLastRound ((List.range' 1 9).foldl aesRound (addRoundKey input 0))

end Sys2Proof.Machine
end

