-- ==== Sys2Proof/Machine/Table.lean ====
section
/-! DEFINITION. MGEN: the generating matrix G (42_matrix.md R460, R461). -/

namespace Sys2Proof.Machine

/-- Counter block n(j, k) = (j << 8) | k, presented least significant byte first (R460). -/
def counterBlock (j k : Nat) : Block :=
  le128Bytes ((BitVec.ofNat 128 j <<< 8) ||| BitVec.ofNat 128 k)

/-- The raw row `j`: the four cipher blocks b[0] to b[3] in sequence, before the fix-up (R461). -/
def rawRow (j : Nat) : Vector Byte 64 :=
  let b : Vector Block 4 := Vector.ofFn fun k => aesZero (counterBlock j k.val)
  Vector.ofFn fun i => (b[i.val / 16])[i.val % 16]

/-- The fix-up: `first` and `last` both from the raw byte 63, then the two writes (R461). -/
def fixRow (b : Vector Byte 64) : Vector Byte 64 :=
  let first := b[0] ^^^ (b[63] >>> 5)
  let last := b[63] &&& 0x1F
  (b.set 0 first).set 63 last

/-- Row `j` of G (R461). -/
def matrixRow (j : Nat) : Vector Byte 64 := fixRow (rawRow j)

/-- The byte of G at offset `a`, 0 to 16,383 (R461, R201). -/
def tableByte (a : Nat) : Byte := (matrixRow (a / 64))[a % 64]

end Sys2Proof.Machine
end

