-- ==== Sys2Proof/Machine/Memory.lean ====
section
/-! DEFINITION. MSTORE bytes 0 to 16,383 as a list of (offset, byte) cells in one canonical form, and the
operations on it (20_memory.md R200 to R204). -/

namespace Sys2Proof.Machine

/-- The written cells of MSTORE, offsets strictly rising (R161, R201). -/
abbrev Mem := List Host.Cell

/-- What the list says of an unlisted offset: no value. A command that reads such an offset gets the
free value Config.mstoreDraw (`State.mstoreByte`; R161, I2; log 7). -/
def Mem.unlisted : Option Byte := none

/-- The byte listed at an offset. -/
def Mem.byte? (m : Mem) (a : Nat) : Option Byte :=
  match m with
  | [] => Mem.unlisted
  | (b, x) :: rest => if b = a then some x else Mem.byte? rest a

/-- The cells of a block of bytes that starts at an offset. -/
def Mem.cells (a : Nat) : List Byte → Mem
  | [] => []
  | x :: rest => (a, x) :: Mem.cells (a + 1) rest

/-- MemWrite(a, n, b): MSTORE[a..a+n-1] becomes b[0..n-1] (R202). -/
def Mem.write (m : Mem) (a : Nat) (bytes : List Byte) : Mem :=
  m.filter (fun c => decide (c.1 < a)) ++ Mem.cells a bytes ++
    m.filter (fun c => decide (a + bytes.length ≤ c.1))

/-- The canonical form: offsets strictly rising and all inside 0 to 16,383 (MATRIX_TAIL is never
written: R201). No cell can equal what an unlisted offset reads as, since that is no value. -/
abbrev Mem.wf (m : Mem) : Prop :=
  m.Pairwise (fun x y => x.1 < y.1) ∧ ∀ c ∈ m, c.1 < 16384

/-- The loop of GEN_MATRIX: for each row, MemWrite(64j, 64, row j of G) (R463). -/
def Mem.writeTable (m : Mem) : Mem :=
  (List.range 256).foldl (fun m j => m.write (64 * j) (matrixRow j).toList) m

end Sys2Proof.Machine
end

