-- ==== Sys2Proof/Machine/State.lean ====
section
/-! DEFINITION. The state of one block (10_state.md R100), the reset state (R170), the model's own
fields, and the reasons a step can stop. -/

namespace Sys2Proof.Machine

/-- STATUS.PHASE (R118). -/
inductive Phase where
  /-- No hash context is open. -/
  | idle
  /-- A context is open and takes ABSORB and FINAL. -/
  | absorb
  /-- FINAL has completed and DIGEST holds the digest. -/
  | done
  deriving DecidableEq, Repr

/-- A statement of the host's program (R310, R311, R730), or the platform's reset input (R700). `off` is
the byte offset in the register window (log 10), `width` the width of the access in bits (R211). -/
inductive HostStmt where
  /-- One read access. -/
  | read (off : Nat) (width : Nat)
  /-- One write access of a value. -/
  | write (off : Nat) (width : Nat) (x : Word)
  /-- WAIT: read STATUS until bit 0 of the value read is 0 (R311). -/
  | wait
  /-- The platform's hardware reset (R700), also what a loss of power ends in (R660). -/
  | hardReset
  deriving DecidableEq, Repr

/-- What the last host access was answered (R211, R212). -/
inductive Reply where
  /-- No access has been made yet. -/
  | none
  /-- A read returned this value. -/
  | value (x : Word)
  /-- A write was taken; what it did is in the state. -/
  | ack
  /-- The access was refused with a bus error (R211, R607). -/
  | busError
  deriving DecidableEq, Repr

/-- Why a step stops. No run from reset reaches any of these (`State.Inv` rules them out): the block
itself never stops (R600, R620). -/
inductive Fault where
  /-- Raised by the meanings of FINAL and MREAD on an operand outside the legal range of R304; the block
  refuses such a command at issue (R603), so the spec gives the engine no effect for it. Safe. -/
  | operandOutOfRange
  /-- Raised by the step when the pending word does not decode; the block never accepts such a word
  (R603). Safe. -/
  | pendingIllegal
  deriving DecidableEq, Repr

/-- Why an instruction has no meaning in this model. -/
inductive Refusal where
  /-- Raised by an arm of `exec` whose instruction is not modelled; no arm does. Safe. -/
  | notModelled (mnemonic : String)
  deriving DecidableEq, Repr

/-- The state of one block. The fields down to `pending` are R100's record; the others are the model's
own (INVENTORY.md). -/
structure State where
  /-- CTRL.IE_DONE (R113). -/
  ieDone : Bool
  /-- CTRL.IE_ERR (R114). -/
  ieErr : Bool
  /-- STATUS.BUSY (R116). -/
  busy : Bool
  /-- STATUS.MREADY (R117). -/
  mready : Bool
  /-- STATUS.PHASE (R118). -/
  phase : Phase
  /-- STATUS.CDONE (R119). -/
  cdone : Bool
  /-- STATUS.ERR (R120). -/
  err : Bool
  /-- STATUS.ERROVF (R121). -/
  errovf : Bool
  /-- STATUS.ERRCODE (R122). -/
  errcode : Byte
  /-- ERRINFO (R125). -/
  errinfo : Word
  /-- LEN, the input length in bytes (R126). -/
  len : Word
  /-- MDATA (R127). -/
  mdata : Word
  /-- CHUNK0 to CHUNK5 (R128). -/
  chunk : Chunk
  /-- PT0 and PT1 (R129). -/
  pt : Block
  /-- CT0 and CT1 (R130). -/
  ct : Block
  /-- DIGEST0 to DIGEST3 (R131). -/
  digest : Vector Byte 32
  /-- HS0 to HS15 (R141). -/
  hs : HashState
  /-- V0 to V9 (R150). -/
  v : Column
  /-- W0 to W9 (R151). -/
  w : Column
  /-- The written bytes of MSTORE 0 to 16,383 (R161). -/
  mstore : Mem
  /-- The accepted command word, from issue to completion (R160). -/
  pending : Option Word
  /-- Model: the host's statements still to come (log 3). -/
  script : List HostStmt
  /-- Model: the answer to the last host access (log 4). -/
  reply : Reply
  /-- Model: host accesses still to land before the engine's step (log 1). -/
  delay : Nat
  /-- Model: how many commands have been accepted (log 1). -/
  issued : Nat
  /-- Model: how many reads have returned a draw (log 8). -/
  draws : Nat
  /-- Model: how many hardware resets the script has made (log 7). -/
  epoch : Nat
  /-- Model: some access of the run raised an error or met a bus error (R613, log 11). -/
  runFaulted : Bool
  deriving DecidableEq, Repr

/-- The column whose limbs are all zero. -/
def Column.zero : Column := Vector.replicate 10 0

/-- The hash state 0^128. -/
def HashState.zero : HashState := Vector.replicate 128 0

/-- `mready` after a hardware reset (R117, R170). -/
def resetMready : Bool := decide (Config.matrixAtReset = .preloaded)

/-- MSTORE after a hardware reset: G if PRELOADED, else a draw, with nothing listed (R170, R700). -/
def resetMstore : Mem :=
  match Config.matrixAtReset with
  | .preloaded => Mem.writeTable []
  | .empty => []

/-- The machine right after a hardware reset (R170, R700), with no host statement placed. The values of
the model's own fields are DESIGN CHOICE (log 18). -/
def State.reset : State where
  ieDone := false
  ieErr := false
  busy := false
  mready := resetMready
  phase := .idle
  cdone := false
  err := false
  errovf := false
  errcode := 0
  errinfo := 0
  len := 0
  mdata := 0
  chunk := Vector.replicate 48 0
  pt := Vector.replicate 16 0
  ct := Vector.replicate 16 0
  digest := Vector.replicate 32 0
  hs := HashState.zero
  v := Column.zero
  w := Column.zero
  mstore := resetMstore
  pending := none
  script := []
  reply := .none
  delay := 0
  issued := 0
  draws := 0
  epoch := 0
  runFaulted := false

end Sys2Proof.Machine
end

