-- ==== Sys2Proof/Machine/Flags.lean ====
section
/-! DEFINITION. Everything that is computed from the status bits: the STATUS and CTRL words as read, the
W1C write, and the interrupt request (10_state.md R111 to R122, R164; 60_exceptions.md R612, R630). The
block has no arithmetic flags (R102). -/

namespace Sys2Proof.Machine

/-- The two bits of STATUS.PHASE (R118). -/
def phaseCode : Phase → BitVec 2
  | .idle => 0
  | .absorb => 1
  | .done => 2

/-- STATUS as read (R115): BUSY 0, MREADY 1, PHASE 3:2, CDONE 4, ERR 5, ERROVF 6, ERRCODE 15:8, the
reserved fields 0. -/
def statusWord (s : State) : Word :=
  0#48 ++ s.errcode ++ 0#1 ++ BitVec.ofBool s.errovf ++ BitVec.ofBool s.err ++
    BitVec.ofBool s.cdone ++ phaseCode s.phase ++ BitVec.ofBool s.mready ++ BitVec.ofBool s.busy

/-- CTRL as read (R111): SRST reads 0, IE_DONE 1, IE_ERR 2, the reserved field 0. -/
def ctrlWord (s : State) : Word :=
  0#61 ++ BitVec.ofBool s.ieErr ++ BitVec.ofBool s.ieDone ++ 0#1

/-- The interrupt request output (R164, R630). -/
def irq (s : State) : Bool := (s.cdone && s.ieDone) || (s.err && s.ieErr)

/-- W1C of STATUS bit 4 (R119). -/
def clearDone (s : State) : State := { s with cdone := false }

/-- CLRERR, the end of the error condition: W1C of STATUS bit 5 (R120, R612, R621). -/
def clearErr (s : State) : State := { s with err := false, errcode := 0, errinfo := 0 }

/-- CLROVF: W1C of STATUS bit 6 (R121, R612). -/
def clearOvf (s : State) : State := { s with errovf := false }

/-- A host write to STATUS: bits 4, 5 and 6 written 1 are cleared, nothing else changes (R115, R612). -/
def writeStatus (x : Word) (s : State) : State :=
  let s := if x.getLsbD 4 then clearDone s else s
  let s := if x.getLsbD 5 then clearErr s else s
  if x.getLsbD 6 then clearOvf s else s

end Sys2Proof.Machine
end

