-- ==== Sys2Proof/Machine/Ops.lean ====
section
/-! DEFINITION. The shared operations: reading MSTORE, raising an error, issue and completion of a command,
and the two resets. -/

namespace Sys2Proof.Machine

/-- One byte of MSTORE as the block's commands read it (R201, R202): the written byte, or the free value
of an offset nothing has written (I2, log 7), or MATRIX_TAIL (I1, log 5). -/
def State.mstoreByte (s : State) (a : MOffset) : Byte :=
  if h : a.val < 16384 then (s.mstore.byte? a.val).getD (Config.mstoreDraw s.epoch a.val)
  else Config.matrixTail ⟨a.val - 16384, by omega⟩

/-- The error codes' names (R601). -/
inductive ErrorCode where
  | illegalCmd
  | badOperand
  | matrixNotReady
  | sequence
  | lengthOverflow
  | busyWrite
  deriving DecidableEq, Repr

/-- The value ERRCODE takes (R601). -/
def errorNumber : ErrorCode → Byte
  | .illegalCmd => 0x01
  | .badOperand => 0x02
  | .matrixNotReady => 0x03
  | .sequence => 0x04
  | .lengthOverflow => 0x05
  | .busyWrite => 0x06

/-- `raise Error(code, info)` (R610): the first error is recorded, a later one sets ERROVF. It is what this
block has in place of a trap (R620). The run has faulted in the sense of R613 (log 11). -/
def raiseError (c : ErrorCode) (info : Word) (s : State) : State :=
  if s.err then { s with errovf := true, runFaulted := true }
  else { s with err := true, errcode := errorNumber c, errinfo := info, runFaulted := true }

/-- The commands that read MSTORE and need `mready` (R304, R603). -/
def needsMatrix : Instr → Bool
  | .absorb | .final _ | .mread _ | .colLoadV _ | .colLoadW _ | .colStep _ => true
  | .nop | .init | .genMatrix | .aesEnc | .colMulx | .colAdd | .colReduce => false

/-- The commands that need an open context (R304, R603). -/
def needsContext : Instr → Bool
  | .absorb | .final _ => true
  | .nop | .init | .genMatrix | .mread _ | .aesEnc | .colLoadV _ | .colLoadW _ | .colMulx | .colAdd
  | .colReduce | .colStep _ => false

/-- How many bytes a command adds to LEN (R126): the addend of the last check of R603. -/
def lengthGrowth : Instr → Nat
  | .absorb => 48
  | .final r => r.toNat
  | .nop | .init | .genMatrix | .mread _ | .aesEnc | .colLoadV _ | .colLoadW _ | .colMulx | .colAdd
  | .colReduce | .colStep _ => 0

/-- The checks of R603 on a decoded command, in the order of R605; none means it may be accepted. The
addition is on unbounded integers. -/
def issueCheck (i : Instr) (s : State) : Option ErrorCode :=
  if i.WellFormed = false then some .badOperand
  else if needsMatrix i = true ∧ s.mready = false then some .matrixNotReady
  else if needsContext i = true ∧ s.phase ≠ .absorb then some .sequence
  else if s.len.toNat + lengthGrowth i > 2 ^ 64 - 1 then some .lengthOverflow
  else none

/-- The last line of IssueCmd: the command becomes pending (R603, R104). The model takes LATENCY of this
command as the number of host accesses that land before the engine's step (log 1). -/
def accept (x : Word) (s : State) : State :=
  { s with
    pending := some x
    busy := true
    delay := Config.latency s.issued
    issued := s.issued + 1 }

/-- IssueCmd: a host write of `x` to CMD (R603, R604, R605, R606). -/
def issueCmd (x : Word) (s : State) : State :=
  if s.busy then raiseError .busyWrite 0x18 s
  else if s.err then { s with errovf := true }
  else
    match decode x with
    | .illegal _ => raiseError .illegalCmd x s
    | .command i =>
      match issueCheck i s with
      | some c => raiseError c x s
      | none => accept x s

/-- The completion every command ends with (R104). -/
def complete (s : State) : State := { s with busy := false, pending := none, cdone := true }

/-- Soft reset: every field of R100 takes its reset value except `mready` and `mstore` (R702). The host's
own side (what it still has to say, the run's record, the counters of free values) goes on. -/
def softReset (s : State) : State :=
  { State.reset with
    mready := s.mready
    mstore := s.mstore
    script := s.script
    reply := s.reply
    issued := s.issued
    draws := s.draws
    epoch := s.epoch
    runFaulted := s.runFaulted }

/-- Hardware reset: every field of R100 takes its reset value (R700). MSTORE, where it is a draw, is a
fresh one (`epoch`, log 7). -/
def hardReset (s : State) : State :=
  { State.reset with
    script := s.script
    reply := s.reply
    issued := s.issued
    draws := s.draws
    epoch := s.epoch + 1
    runFaulted := s.runFaulted }

/-- A host write to CTRL (R112). -/
def writeCtrl (x : Word) (s : State) : State :=
  if x.getLsbD 0 then softReset s
  else { s with ieDone := x.getLsbD 1, ieErr := x.getLsbD 2 }

end Sys2Proof.Machine
end

