-- ==== Sys2Proof/Machine/Access.lean ====
section
/-! DEFINITION. The register window and the host's accesses (10_state.md R105 to R151, 20_memory.md R211,
R212, 60_exceptions.md R606, R607), and one statement of the host's script. -/

namespace Sys2Proof.Machine

/-- The registers of the window (R105). -/
inductive Reg where
  | id
  | ctrl
  | status
  | cmd
  | errinfo
  | len
  | mdata
  | chunk (k : Fin 6)
  | pt (k : Fin 2)
  | ct (k : Fin 2)
  | digest (k : Fin 4)
  | hs (k : Fin 16)
  | v (k : Fin 10)
  | w (k : Fin 10)
  deriving DecidableEq, Repr

/-- The byte offset of a register in the window; NAMEk is at offset(NAME0) + 8k (R105). -/
def regOffset : Reg → Nat
  | .id => 0x000
  | .ctrl => 0x008
  | .status => 0x010
  | .cmd => 0x018
  | .errinfo => 0x020
  | .len => 0x028
  | .mdata => 0x030
  | .chunk k => 0x040 + 8 * k.val
  | .pt k => 0x070 + 8 * k.val
  | .ct k => 0x080 + 8 * k.val
  | .digest k => 0x090 + 8 * k.val
  | .hs k => 0x100 + 8 * k.val
  | .v k => 0x180 + 8 * k.val
  | .w k => 0x1D0 + 8 * k.val

/-- Every register of the map (R105). -/
def allRegs : List Reg :=
  [.id, .ctrl, .status, .cmd, .errinfo, .len, .mdata] ++
    (List.finRange 6).map .chunk ++ (List.finRange 2).map .pt ++ (List.finRange 2).map .ct ++
    (List.finRange 4).map .digest ++ (List.finRange 16).map .hs ++ (List.finRange 10).map .v ++
    (List.finRange 10).map .w

/-- The register at a window offset; a reserved offset, an offset that is no multiple of 8 and one outside
the window have none (R105, R106, R211). -/
def regAt (off : Nat) : Option Reg := allRegs.find? fun r => regOffset r == off

/-- The host address of a window offset: BASE + off (R105, R211, log 10). -/
def busAddress (off : Nat) : Nat := Config.base + off

/-- The constant of ID (R110). -/
def idWord : Word := 0x0139303542534652

/-- The value a register holds (R105 to R151); CMD reads 0 (R124). -/
def regValue (r : Reg) (s : State) : Word :=
  match r with
  | .id => idWord
  | .ctrl => ctrlWord s
  | .status => statusWord s
  | .cmd => 0
  | .errinfo => s.errinfo
  | .len => s.len
  | .mdata => s.mdata
  | .chunk k => arrayWord (m := 6) s.chunk k
  | .pt k => arrayWord (m := 2) s.pt k
  | .ct k => arrayWord (m := 2) s.ct k
  | .digest k => arrayWord (m := 4) s.digest k
  | .hs k => arrayWord (m := 16) s.hs k
  | .v k => s.v[k]
  | .w k => s.w[k]

/-- The registers whose reads return a draw while busy (R107). -/
def drawnWhileBusy : Reg → Bool
  | .len | .mdata | .ct _ | .digest _ | .hs _ | .v _ | .w _ => true
  | .id | .ctrl | .status | .cmd | .errinfo | .chunk _ | .pt _ => false

/-- The registers whose writes are discarded while busy (R108, R606). -/
def guardedWhileBusy : Reg → Bool
  | .cmd | .chunk _ | .pt _ | .v _ | .w _ => true
  | .id | .ctrl | .status | .errinfo | .len | .mdata | .ct _ | .digest _ | .hs _ => false

/-- A read of a register: its value, or a draw (R107, I3, log 8); it changes no register (R212). -/
def readReg (r : Reg) (s : State) : State :=
  if s.busy && drawnWhileBusy r then
    { s with reply := .value (Config.readDraw s.draws), draws := s.draws + 1 }
  else { s with reply := .value (regValue r s) }

/-- The effect of a write that is performed (R106, R109, R112, R115, R124, R150, R151). A write to a
read-only register is ignored and raises nothing. -/
def performWrite (r : Reg) (x : Word) (s : State) : State :=
  match r with
  | .ctrl => writeCtrl x s
  | .status => writeStatus x s
  | .cmd => issueCmd x s
  | .chunk k => { s with chunk := setArrayWord (m := 6) s.chunk k x }
  | .pt k => { s with pt := setArrayWord (m := 2) s.pt k x }
  | .v k => { s with v := s.v.set k x }
  | .w k => { s with w := s.w.set k x }
  | .id | .errinfo | .len | .mdata | .ct _ | .digest _ | .hs _ => s

/-- A host write to a register: discarded with BUSY_WRITE where R108 says so, else performed. -/
def writeReg (r : Reg) (x : Word) (s : State) : State :=
  if s.busy && guardedWhileBusy r then raiseError .busyWrite (BitVec.ofNat 64 (regOffset r)) s
  else performWrite r x s

/-- A bus error: answered to the host, nothing of the block changes (R211, R607); the run has faulted in
the sense of R613 (log 11). -/
def busError (s : State) : State := { s with reply := .busError, runFaulted := true }

/-- A host read access (R211). -/
def busRead (off width : Nat) (s : State) : State :=
  if width = 64 then
    match regAt off with
    | some r => readReg r s
    | none => busError s
  else busError s

/-- A host write access (R211). -/
def busWrite (off width : Nat) (x : Word) (s : State) : State :=
  if width = 64 then
    match regAt off with
    | some r => { writeReg r x s with reply := .ack }
    | none => busError s
  else busError s

/-- One statement of the host's script, the script already advanced to `rest`. WAIT reads STATUS and stays
while the value read has bit 0 set (R311, log 2). -/
def runStmt (stmt : HostStmt) (rest : List HostStmt) (s : State) : State :=
  match stmt with
  | .read off width => busRead off width { s with script := rest }
  | .write off width x => busWrite off width x { s with script := rest }
  | .wait =>
    if s.busy then readReg .status s else readReg .status { s with script := rest }
  | .hardReset => hardReset { s with script := rest }

/-- The host's move: its next statement, or nothing when it has none left (R220, log 3). -/
def hostStep (s : State) : State :=
  match s.script with
  | [] => s
  | stmt :: rest => runStmt stmt rest s

/-- Whether the engine moves before the host's next statement, a command being pending (R104, R741): it
does when the host waits or has nothing left to do, and otherwise when LATENCY is used up (log 1, 2). -/
def engineTurn (s : State) : Bool :=
  match s.script with
  | [] => true
  | .wait :: _ => true
  | .read _ _ :: _ => s.delay == 0
  | .write _ _ _ :: _ => s.delay == 0
  | .hardReset :: _ => s.delay == 0

end Sys2Proof.Machine
end

