-- ==== Sys2Proof/Machine/Cipher.lean ====
section
/-! DEFINITION. The meaning of AES_ENC (41_cipher.md R430). -/

namespace Sys2Proof.Machine

/-- AES_ENC: CT becomes E(PT) (R430). -/
def execAesEnc (s : State) : Host.Outcome State Fault Refusal :=
  .next (complete { s with ct := aesZero s.pt })

end Sys2Proof.Machine
end

