-- ==== Sys2Proof/Machine/Column.lean ====
section
/-! DEFINITION. FCOL: the column functions and the six column commands (43_column.md R500 to R515). The
functions that read MSTORE take its bytes as an argument `rd`, so that what depends on them can be said. -/

namespace Sys2Proof.Machine

/-- load(pos): the ten little-endian words of the 80-byte column window at offset 64 pos (R205, R500). -/
def load (rd : MOffset → Byte) (pos : Byte) : Column :=
  Vector.ofFn fun k =>
    le64 fun i => rd ⟨64 * pos.toNat + 8 * k.val + i.val, by have := pos.isLt; omega⟩

/-- mulX128(a): limb i is limb i-2 of `a`, limbs 0 and 1 are zero, limbs 8 and 9 of `a` are discarded
(R501). -/
def mulX128 (a : Column) : Column :=
  Vector.ofFn fun i => if i.val < 2 then 0 else a[i.val - 2]

/-- add(a, w): exclusive or of limbs 0 to 8; limb 9 is that of `a` (R502). -/
def add (a w : Column) : Column :=
  Vector.ofFn fun i => if i.val < 9 then a[i] ^^^ w[i] else a[i]

/-- reduce(a): the five folds of limbs 7, 8 and 9 into limbs 0 to 2, the mask of limb 7 and the clears
(R504). Every fold reads limbs that only the last three statements change, so the folds are done at once;
`Laws.reduce_eq_statements` gives the statement list. -/
def reduce (a : Column) : Column :=
  #v[a[0] ^^^ (a[7] >>> 61) ^^^ (a[8] <<< 3),
     a[1] ^^^ (a[8] >>> 61) ^^^ (a[9] <<< 3),
     a[2] ^^^ (a[9] >>> 61),
     a[3], a[4], a[5], a[6],
     a[7] &&& 0x1FFFFFFFFFFFFFFF,
     0, 0]

/-- One column step on a loaded column: reduce(add(mulX128(v), w)), in that order (R503). -/
def stepWith (v w : Column) : Column := reduce (add (mulX128 v) w)

/-- COL_LOAD_V pos (R510). -/
def execColLoadV (pos : Byte) (s : State) : Host.Outcome State Fault Refusal :=
  .next (complete { s with v := load s.mstoreByte pos })

/-- COL_LOAD_W pos (R511). -/
def execColLoadW (pos : Byte) (s : State) : Host.Outcome State Fault Refusal :=
  .next (complete { s with w := load s.mstoreByte pos })

/-- COL_MULX (R512). -/
def execColMulx (s : State) : Host.Outcome State Fault Refusal :=
  .next (complete { s with v := mulX128 s.v })

/-- COL_ADD (R513). -/
def execColAdd (s : State) : Host.Outcome State Fault Refusal :=
  .next (complete { s with v := add s.v s.w })

/-- COL_REDUCE (R514). -/
def execColReduce (s : State) : Host.Outcome State Fault Refusal :=
  .next (complete { s with v := reduce s.v })

/-- COL_STEP pos: W becomes load(pos), then V takes one column step (R515). -/
def execColStep (pos : Byte) (s : State) : Host.Outcome State Fault Refusal :=
  let w := load s.mstoreByte pos
  .next (complete { s with w := w, v := stepWith s.v w })

end Sys2Proof.Machine
end

