-- ==== Sys2Proof/Machine/Control.lean ====
section
/-! DEFINITION. The meanings of NOP and INIT (40_control.md R400, R402). -/

namespace Sys2Proof.Machine

/-- NOP: nothing besides the completion (R400). -/
def execNop (s : State) : Host.Outcome State Fault Refusal := .next (complete s)

/-- INIT: HS, LEN and DIGEST zero, PHASE becomes ABSORB (R402). -/
def execInit (s : State) : Host.Outcome State Fault Refusal :=
  .next (complete { s with
    hs := HashState.zero
    len := 0
    digest := Vector.replicate 32 0
    phase := .absorb })

end Sys2Proof.Machine
end

