-- ==== Sys2Proof/Machine/Mixer.lean ====
section
/-! DEFINITION. BMIX: the mixing pass and ABSORB (44_mixer.md R520 to R527). -/

namespace Sys2Proof.Machine

/-- What a mixing pass changes: the hash state and the columns V and W (R526). -/
structure MixState where
  hs : HashState
  v : Column
  w : Column
  deriving DecidableEq, Repr

/-- The position buffer hs[0..63] ‖ c, taken before the pass writes `hs` (R520). -/
def positionBuffer (hs : HashState) (chunk : Chunk) : Vector Byte 112 :=
  Vector.ofFn fun i => if h : i.val < 64 then hs[i.val] else chunk[i.val - 64]

/-- One turn of the pass's loop: W becomes load(p), V takes a column step (R521). -/
def mixStep (rd : MOffset → Byte) (vw : Column × Column) (p : Byte) : Column × Column :=
  let w := load rd p
  (stepWith vw.1 w, w)

/-- The loop of the pass over positions pb[1] to pb[111], from V = W = load(pb[0]) (R521). -/
def mixColumnsVW (rd : MOffset → Byte) (pb : Vector Byte 112) : Column × Column :=
  (pb.toList.drop 1).foldl (mixStep rd) (load rd pb[0], load rd pb[0])

/-- The new hash state: bytes 8k to 8k+7 are LE64bytes(v[k]) for k = 0 to 7, bytes 64 to 127 are not
written (R521). -/
def writeBack (hs : HashState) (v : Column) : HashState :=
  Vector.ofFn fun i => if h : i.val < 64 then leByte v[i.val / 8] (i.val % 8) else hs[i]

/-- Mix(c): one mixing pass (R521). -/
def mix (rd : MOffset → Byte) (hs : HashState) (chunk : Chunk) : MixState :=
  let vw := mixColumnsVW rd (positionBuffer hs chunk)
  { hs := writeBack hs vw.1, v := vw.1, w := vw.2 }

/-- ABSORB: Mix(CHUNK), LEN grows by 48 (R525). The block refuses a length past 2^64 - 1 at issue
(R603), so the addition does not wrap for an accepted command (log 12). -/
def execAbsorb (s : State) : Host.Outcome State Fault Refusal :=
  let m := mix s.mstoreByte s.hs s.chunk
  .next (complete { s with hs := m.hs, v := m.v, w := m.w, len := s.len + 48 })

end Sys2Proof.Machine
end

