-- ==== Sys2Proof/Machine/Padding.lean ====
section
/-! DEFINITION. PAD: the pad buffer and how it is mixed (45_padding.md R540 to R545). -/

namespace Sys2Proof.Machine

/-- The pad's length n(R): 48 bytes if R ≤ 40, else 96 (R540). -/
def padLength (r : Nat) : Nat := if r ≤ 40 then 48 else 96

/-- Pad(rem, L): the remainder, zeros, and the length field in the last 8 bytes (R541). -/
def pad (rem : List Byte) (len : Word) : List Byte :=
  rem ++ List.replicate (padLength rem.length - 8 - rem.length) 0 ++ le64Bytes len

/-- Bytes 48b to 48b+47 of a byte string, as a chunk. -/
def chunkAt (p : List Byte) (b : Nat) : Chunk :=
  Vector.ofFn fun i => p.getD (48 * b + i.val) 0

/-- MixPad(p): one pass on p[0..47], and a second on p[48..95] if the pad has 96 bytes, each seeded by the
state the one before wrote (R542). -/
def mixPad (rd : MOffset → Byte) (hs : HashState) (p : List Byte) : MixState :=
  let m := mix rd hs (chunkAt p 0)
  if p.length = 96 then mix rd m.hs (chunkAt p 1) else m

end Sys2Proof.Machine
end

