-- ==== Sys2Proof/Machine/Filter.lean ====
section
/-! DEFINITION. OFILT: the SHA-256 compression function, the markers and the filter, FINAL, and the function
`hash` (46_output_filter.md R560 to R582). -/

namespace Sys2Proof.Machine

/-- H_0 (R561). -/
def compressInit : Digest8 :=
  #v[0x6a09e667, 0xbb67ae85, 0x3c6ef372, 0xa54ff53a, 0x510e527f, 0x9b05688c, 0x1f83d9ab, 0x5be0cd19]

/-- K[0] to K[63], eight a line (R562). -/
def compressK : List Word32 :=
  [0x428a2f98, 0x71374491, 0xb5c0fbcf, 0xe9b5dba5, 0x3956c25b, 0x59f111f1, 0x923f82a4, 0xab1c5ed5] ++
  [0xd807aa98, 0x12835b01, 0x243185be, 0x550c7dc3, 0x72be5d74, 0x80deb1fe, 0x9bdc06a7, 0xc19bf174] ++
  [0xe49b69c1, 0xefbe4786, 0x0fc19dc6, 0x240ca1cc, 0x2de92c6f, 0x4a7484aa, 0x5cb0a9dc, 0x76f988da] ++
  [0x983e5152, 0xa831c66d, 0xb00327c8, 0xbf597fc7, 0xc6e00bf3, 0xd5a79147, 0x06ca6351, 0x14292967] ++
  [0x27b70a85, 0x2e1b2138, 0x4d2c6dfc, 0x53380d13, 0x650a7354, 0x766a0abb, 0x81c2c92e, 0x92722c85] ++
  [0xa2bfe8a1, 0xa81a664b, 0xc24b8b70, 0xc76c51a3, 0xd192e819, 0xd6990624, 0xf40e3585, 0x106aa070] ++
  [0x19a4c116, 0x1e376c08, 0x2748774c, 0x34b0bcb5, 0x391c0cb3, 0x4ed8aa4a, 0x5b9cca4f, 0x682e6ff3] ++
  [0x748f82ee, 0x78a5636f, 0x84c87814, 0x8cc70208, 0x90befffa, 0xa4506ceb, 0xbef9a3f7, 0xc67178f2]

/-- Ch (R563). -/
def shaCh (e f g : Word32) : Word32 := (e &&& f) ^^^ (~~~e &&& g)

/-- Maj (R563). -/
def shaMaj (a b c : Word32) : Word32 := (a &&& b) ^^^ (a &&& c) ^^^ (b &&& c)

/-- Σ0 (R563). -/
def bigSigma0 (a : Word32) : Word32 := a.rotateRight 2 ^^^ a.rotateRight 13 ^^^ a.rotateRight 22

/-- Σ1 (R563). -/
def bigSigma1 (e : Word32) : Word32 := e.rotateRight 6 ^^^ e.rotateRight 11 ^^^ e.rotateRight 25

/-- σ0 (R563). -/
def smallSigma0 (x : Word32) : Word32 := x.rotateRight 7 ^^^ x.rotateRight 18 ^^^ (x >>> 3)

/-- σ1 (R563). -/
def smallSigma1 (x : Word32) : Word32 := x.rotateRight 17 ^^^ x.rotateRight 19 ^^^ (x >>> 10)

/-- The next word of the schedule from the words so far, newest first: entry k is W(t-1-k) (R564). -/
def scheduleNext (ws : List Word32) : Word32 :=
  smallSigma1 (ws.getD 1 0) + ws.getD 6 0 + smallSigma0 (ws.getD 14 0) + ws.getD 15 0

/-- `n` more words of the schedule, newest first (R564). -/
def scheduleExtend : Nat → List Word32 → List Word32
  | 0, ws => ws
  | n + 1, ws => scheduleExtend n (scheduleNext ws :: ws)

/-- W0 to W63 of a 64-byte block (R564). -/
def schedule (b : Vector Byte 64) : List Word32 :=
  let first := (List.finRange 16).map fun t => be32 fun i => b[4 * t.val + i.val]
  (scheduleExtend 48 first.reverse).reverse

/-- One round on (a, b, c, d, e, f, g, h) with K[t] and W[t] (R565). -/
def compressRound (x : Digest8) (kw : Word32 × Word32) : Digest8 :=
  let t1 := x[7] + bigSigma1 x[4] + shaCh x[4] x[5] x[6] + kw.1 + kw.2
  let t2 := bigSigma0 x[0] + shaMaj x[0] x[1] x[2]
  #v[t1 + t2, x[0], x[1], x[2], x[3] + t1, x[4], x[5], x[6]]

/-- C(H, B), COMPRESS256 (R560, R565; log 9). -/
def compress (h : Digest8) (b : Vector Byte 64) : Digest8 :=
  let x := (compressK.zip (schedule b)).foldl compressRound h
  Vector.ofFn fun i => h[i] + x[i]

/-- hs[64h .. 64h+63] for h = 0 or 1. -/
def hsHalf (hs : HashState) (h : Fin 2) : Vector Byte 64 :=
  Vector.ofFn fun i => hs[64 * h.val + i.val]

/-- The digest bytes: BE32bytes of the eight words in order (R571). -/
def digestBytes (h : Digest8) : Vector Byte 32 :=
  Vector.ofFn fun i => beByte h[i.val / 4] (i.val % 4)

/-- The markers: byte 64 becomes 0x80 and byte 126 becomes 0x02 (R570). -/
def setMarkers (hs : HashState) : HashState := (hs.set 64 0x80).set 126 0x02

/-- Filter(hs), for HS with the markers set (R571). -/
def filter (hs : HashState) : Vector Byte 32 :=
  digestBytes (compress (compress compressInit (hsHalf hs 0)) (hsHalf hs 1))

/-- FINAL r: pad the remainder chunk[0..r-1], mix the pad, set the markers, write the digest (R580). The
block refuses `r > 47` at issue (R306, R603), and Pad is not defined there (R541): no accepted command
takes the fault. -/
def execFinal (r : Byte) (s : State) : Host.Outcome State Fault Refusal :=
  if r.toNat ≤ 47 then
    let len := s.len + r.setWidth 64
    let m := mixPad s.mstoreByte s.hs (pad (s.chunk.toList.take r.toNat) len)
    let hs := setMarkers m.hs
    .next (complete { s with
      hs := hs
      v := m.v
      w := m.w
      len := len
      digest := filter hs
      phase := .done })
  else .fault .operandOutOfRange

/-- The hash state after the full chunks 0 to k-1 of a message, from 0^128 (R582). -/
def absorbChunks (rd : MOffset → Byte) (m : List Byte) (k : Nat) : HashState :=
  (List.range k).foldl (fun hs b => (mix rd hs (chunkAt m b)).hs) HashState.zero

/-- hash(m), for a byte string of fewer than 2^64 bytes (R582). -/
def hashMessage (rd : MOffset → Byte) (m : List Byte) : Vector Byte 32 :=
  let k := m.length / 48
  let hs := absorbChunks rd m k
  filter (setMarkers (mixPad rd hs (pad (m.drop (48 * k)) (BitVec.ofNat 64 m.length))).hs)

end Sys2Proof.Machine
end

