-- ==== Sys2Proof/Machine/Matrix.lean ====
section
/-! DEFINITION. The meanings of GEN_MATRIX and MREAD (42_matrix.md R463, R465). -/

namespace Sys2Proof.Machine

/-- GEN_MATRIX: the table G is written into MSTORE, MREADY becomes 1 (R463). -/
def execGenMatrix (s : State) : Host.Outcome State Fault Refusal :=
  .next (complete { s with mstore := s.mstore.writeTable, mready := true })

/-- LE64 of the 8 bytes of MSTORE at offset 8 idx (R465). -/
def mstoreWord (rd : MOffset → Byte) (idx : Nat) (h : idx ≤ 2049) : Word :=
  le64 fun i => rd ⟨8 * idx + i.val, by omega⟩

/-- MREAD idx: MDATA becomes word idx of MSTORE (R465). The block refuses an index above 2049 at issue
(R306, R603), and MemRead is not defined there (R202): no accepted command takes the fault. -/
def execMread (idx : Half) (s : State) : Host.Outcome State Fault Refusal :=
  if h : idx.toNat ≤ 2049 then
    .next (complete { s with mdata := mstoreWord s.mstoreByte idx.toNat h })
  else .fault .operandOutOfRange

end Sys2Proof.Machine
end

