-- ==== Sys2Proof/Machine/Dispatch.lean ====
section
/-! DEFINITION. The engine's step on a command: one arm per constructor of Instr (10_state.md R104). -/

namespace Sys2Proof.Machine

def exec (i : Instr) (s : State) : Host.Outcome State Fault Refusal :=
  match i with
  | .nop => Sys2Proof.Machine.execNop s
  | .init => Sys2Proof.Machine.execInit s
  | .absorb => Sys2Proof.Machine.execAbsorb s
  | .final r => Sys2Proof.Machine.execFinal r s
  | .genMatrix => Sys2Proof.Machine.execGenMatrix s
  | .mread idx => Sys2Proof.Machine.execMread idx s
  | .aesEnc => Sys2Proof.Machine.execAesEnc s
  | .colLoadV pos => Sys2Proof.Machine.execColLoadV pos s
  | .colLoadW pos => Sys2Proof.Machine.execColLoadW pos s
  | .colMulx => Sys2Proof.Machine.execColMulx s
  | .colAdd => Sys2Proof.Machine.execColAdd s
  | .colReduce => Sys2Proof.Machine.execColReduce s
  | .colStep pos => Sys2Proof.Machine.execColStep pos s

end Sys2Proof.Machine
end

