-- ==== Sys2Proof/Machine/Step.lean ====
section
/-! DEFINITION. One step of the machine: the engine's or the host's (00_scope.md R16, 10_state.md R104). -/

namespace Sys2Proof.Machine

/-- One step. With a command pending and the engine's turn, the engine performs the whole command (R104);
otherwise the host makes its next access (R220), which uses up one unit of the pending command's LATENCY.
With no command pending and no statement left, nothing happens (R104, R740; log 3). -/
def step (s : State) : Host.Outcome State Fault Refusal :=
  match s.pending with
  | none => .next (hostStep s)
  | some x =>
    if engineTurn s then
      match decode x with
      | .command i => exec i s
      | .illegal _ => .fault .pendingIllegal
    else .next (hostStep { s with delay := s.delay - 1 })

/-- The state in which a command word is the accepted one and the engine has the next move: what an
accepted CMD write leaves once LATENCY is used up (R104; log 17). -/
def State.withFetchWord (s : State) (nbits w : Nat) : State :=
  { s with pending := some (tableWord nbits w), busy := true, delay := 0 }

end Sys2Proof.Machine
end

