-- ==== Sys2Proof/Machine/Script.lean ====
section
/-! DEFINITION. The host's side in words: the pseudo-instructions and their expansions (30_encoding.md R311,
R312), the text of a command (R309) and of a host script (R310). The choices the rules leave open are in log
20. -/

namespace Sys2Proof.Machine

/-- WRITE reg, value: one 64-bit write (R310). -/
def writeStmt (r : Reg) (x : Word) : HostStmt := .write (regOffset r) 64 x

/-- READ reg: one 64-bit read (R310). -/
def readStmt (r : Reg) : HostStmt := .read (regOffset r) 64

/-- ISSUE of a command (R311). -/
def issueScript (i : Instr) : List HostStmt := [writeStmt .cmd (encode i)]

/-- DO of a command: ISSUE, then WAIT (R311). -/
def doScript (i : Instr) : List HostStmt := issueScript i ++ [.wait]

/-- CLRDONE (R311). -/
def clrDoneScript : List HostStmt := [writeStmt .status 0x10]

/-- CLRERR (R311). -/
def clrErrScript : List HostStmt := [writeStmt .status 0x20]

/-- CLROVF (R311). -/
def clrOvfScript : List HostStmt := [writeStmt .status 0x40]

/-- SRST (R311). -/
def srstScript : List HostStmt := [writeStmt .ctrl 0x1]

/-- IRQEN d, e: CTRL is written d·2 + e·4 (R311). -/
def irqEnScript (d e : Bool) : List HostStmt :=
  [writeStmt .ctrl (0#61 ++ BitVec.ofBool e ++ BitVec.ofBool d ++ 0#1)]

/-- LDCHUNK b0 … b47 (R311). -/
def ldChunkScript (b : Chunk) : List HostStmt :=
  (List.finRange 6).map fun k => writeStmt (.chunk k) (arrayWord (m := 6) b k)

/-- LDPT b0 … b15 (R311). -/
def ldPtScript (b : Block) : List HostStmt :=
  (List.finRange 2).map fun k => writeStmt (.pt k) (arrayWord (m := 2) b k)

/-- LDV l0 … l9 (R311). -/
def ldVScript (l : Column) : List HostStmt :=
  (List.finRange 10).map fun k => writeStmt (.v k) l[k]

/-- LDW l0 … l9 (R311). -/
def ldWScript (l : Column) : List HostStmt :=
  (List.finRange 10).map fun k => writeStmt (.w k) l[k]

/-- RDDIGEST (R311). -/
def rdDigestScript : List HostStmt :=
  (List.finRange 4).map fun k => readStmt (.digest k)

/-- HASH m (R312); `ready` says whether the program knows that MREADY = 1. The chunk of the remainder is
filled up with zeros. -/
def hashScript (ready : Bool) (m : List Byte) : List HostStmt :=
  let k := m.length / 48
  (if ready then [] else doScript .genMatrix) ++ doScript .init ++
    (List.range k).flatMap (fun b => ldChunkScript (chunkOf m b) ++ doScript .absorb) ++
    ldChunkScript (chunkOf m k) ++ doScript (.final (BitVec.ofNat 8 (m.length % 48))) ++
    rdDigestScript
where
  /-- Bytes 48b to 48b+47 of the message, zero past its end. -/
  chunkOf (m : List Byte) (b : Nat) : Chunk := Vector.ofFn fun i => m.getD (48 * b + i.val) 0

/-- The value of a digit in a base of at most 16. -/
def digitOf (base : Nat) (ch : Char) : Option Nat :=
  let d := if '0' ≤ ch ∧ ch ≤ '9' then ch.toNat - '0'.toNat
    else if 'a' ≤ ch ∧ ch ≤ 'f' then ch.toNat - 'a'.toNat + 10
    else if 'A' ≤ ch ∧ ch ≤ 'F' then ch.toNat - 'A'.toNat + 10
    else base
  if d < base then some d else none

/-- A number from its digits, most significant first. -/
def digitsOf (base : Nat) : Nat → List Char → Option Nat
  | acc, [] => some acc
  | acc, ch :: rest => (digitOf base ch).bind fun d => digitsOf base (base * acc + d) rest

/-- A decimal number or a 0x hexadecimal number (R309). -/
def numberOf : List Char → Option Nat
  | '0' :: 'x' :: ch :: rest => digitsOf 16 0 (ch :: rest)
  | ch :: rest => digitsOf 10 0 (ch :: rest)
  | [] => none

/-- A number below a bound (R309: a wider value is refused). -/
def boundedOf (bound : Nat) (t : List Char) : Option Nat :=
  (numberOf t).bind fun n => if n < bound then some n else none

/-- The parts of a text between the separators, in order. -/
def splitAt (sep : Char) : List Char → List (List Char)
  | [] => [[]]
  | ch :: rest =>
    match splitAt sep rest with
    | [] => [[ch]]
    | part :: parts => if ch = sep then [] :: part :: parts else (ch :: part) :: parts

/-- The commands without operand, by mnemonic (R304). -/
def plainCommands : List Instr :=
  [.nop, .init, .absorb, .genMatrix, .aesEnc, .colMulx, .colAdd, .colReduce]

/-- The commands of format B, by mnemonic (R304). -/
def byteCommands : List (Byte → Instr) := [.final, .colLoadV, .colLoadW, .colStep]

/-- The command that a text, split at single spaces, writes (R309). -/
def commandOfParts : List (List Char) → Option Instr
  | [name] => plainCommands.find? fun i => i.mnemonic.toList == name
  | [name, operand] =>
    if name = "MREAD".toList then
      (boundedOf 65536 operand).map fun n => .mread (BitVec.ofNat 16 n)
    else
      (byteCommands.find? fun mk => (mk 0).mnemonic.toList == name).bind fun mk =>
        (boundedOf 256 operand).map fun n => mk (BitVec.ofNat 8 n)
  | _ => none

/-- The assembled form of a command's text: its word (R309). -/
def assemble (t : String) : Option Word := (commandOfParts (splitAt ' ' t.toList)).map encode

/-- A register's name in a host script (R105, R310). -/
def regName : Reg → String
  | .id => "ID"
  | .ctrl => "CTRL"
  | .status => "STATUS"
  | .cmd => "CMD"
  | .errinfo => "ERRINFO"
  | .len => "LEN"
  | .mdata => "MDATA"
  | .chunk k => "CHUNK" ++ toString k.val
  | .pt k => "PT" ++ toString k.val
  | .ct k => "CT" ++ toString k.val
  | .digest k => "DIGEST" ++ toString k.val
  | .hs k => "HS" ++ toString k.val
  | .v k => "V" ++ toString k.val
  | .w k => "W" ++ toString k.val

/-- The register of a name. -/
def regOfName (name : List Char) : Option Reg := allRegs.find? fun r => (regName r).toList == name

/-- A text without a comma at its end; none where it has none. -/
def dropComma (t : List Char) : Option (List Char) :=
  if t.getLast? = some ',' then some t.dropLast else none

/-- A list of exactly `n` numbers of `w` bits, the operands of LDCHUNK, LDPT, LDV and LDW (R311). That they may
be decimal or 0x hexadecimal, as R309 has it for command operands, is DESIGN CHOICE (log 20). -/
def vectorOf (n w : Nat) (parts : List (List Char)) : Option (Vector (BitVec w) n) :=
  let xs := parts.filterMap fun t => (boundedOf (2 ^ w) t).map (BitVec.ofNat w)
  if parts.length = n ∧ xs.length = n then some (Vector.ofFn fun i => xs.getD i.val 0) else none

/-- One bit, the number 0 or 1, an operand of IRQEN (R311), decimal or 0x hexadecimal: DESIGN CHOICE
(log 20). -/
def bitOf (t : List Char) : Option Bool := (boundedOf 2 t).map fun n => n == 1

/-- The statements that one line without comment stands for, split at single spaces (R310, R311); HASH has
no text form in the rules. The value of WRITE (R310: "a 64-bit number") may be decimal or 0x hexadecimal:
DESIGN CHOICE (log 20). -/
def statementsOfParts : List (List Char) → Option (List HostStmt)
  | [] => none
  | name :: operands =>
    match String.ofList name, operands with
    | "READ", [r] => (regOfName r).map fun r => [readStmt r]
    | "WRITE", [r, x] =>
      ((dropComma r).bind regOfName).bind fun r =>
        (boundedOf (2 ^ 64) x).map fun n => [writeStmt r (BitVec.ofNat 64 n)]
    | "ISSUE", parts => (commandOfParts parts).map issueScript
    | "DO", parts => (commandOfParts parts).map doScript
    | "WAIT", [] => some [.wait]
    | "CLRDONE", [] => some clrDoneScript
    | "CLRERR", [] => some clrErrScript
    | "CLROVF", [] => some clrOvfScript
    | "SRST", [] => some srstScript
    | "IRQEN", [d, e] =>
      ((dropComma d).bind bitOf).bind fun d => (bitOf e).map fun e => irqEnScript d e
    | "LDCHUNK", parts => (vectorOf 48 8 parts).map ldChunkScript
    | "LDPT", parts => (vectorOf 16 8 parts).map ldPtScript
    | "LDV", parts => (vectorOf 10 64 parts).map ldVScript
    | "LDW", parts => (vectorOf 10 64 parts).map ldWScript
    | "RDDIGEST", [] => some rdDigestScript
    | _, _ => none

/-- A text without the spaces at its end. -/
def trimEnd (t : List Char) : List Char := (t.reverse.dropWhile fun ch => ch == ' ').reverse

/-- The statements of one line; from ';' on it is a comment, and a line of nothing else has none (R310). -/
def statementsOfLine (line : List Char) : Option (List HostStmt) :=
  let code := trimEnd (line.takeWhile fun ch => ch != ';')
  if code = [] then some [] else statementsOfParts (splitAt ' ' code)

/-- The script of a text, one statement or pseudo-instruction a line (R310, R311). -/
def scriptOfText (t : String) : Option (List HostStmt) :=
  (splitAt '\n' t.toList).foldr
    (fun line rest => (statementsOfLine line).bind fun a => rest.map fun b => a ++ b) (some [])

end Sys2Proof.Machine
end

