-- ==== Sys2Proof/Safety.lean ====
section
/-! DEFINITION. What the claims are stated in: a run without a fault and its end (R613, R740), the invariant
of every step, the polynomial reading of columns (R14), and the pass of a whole hash context (R581). -/

namespace Sys2Proof

open Machine Polynomial

/-- No access of the run has raised an error or met a bus error (R613). -/
def Safe (s : State) : Prop := s.runFaulted = false

/-- A host program's run is over: every statement performed and no command pending (R740). -/
def RunOver (s : State) : Prop := s.script = [] ∧ s.pending = none

/-- What holds of every state a run reaches. -/
structure StateInv (s : State) : Prop where
  /-- BUSY is 1 exactly from issue to completion (R104, R116). -/
  busyPending : s.busy = s.pending.isSome
  /-- The pending word is one that IssueCmd accepts in this very state (R600, R603). -/
  accepted : ∀ x, s.pending = some x → ∃ i, decode x = .command i ∧ issueCheck i s = none
  /-- ERRCODE and ERRINFO are 0 while no error is recorded (R122, R612). -/
  noError : s.err = false → s.errcode = 0 ∧ s.errinfo = 0
  /-- A recorded error has one of the six codes (R601). -/
  errorCode : s.err = true → ∃ c : ErrorCode, s.errcode = errorNumber c
  /-- A recorded error, or a lost one, is a fault of the run (R613, R121). -/
  runRecord : s.err = true ∨ s.errovf = true → s.runFaulted = true
  /-- MSTORE is in its canonical form. -/
  memory : s.mstore.wf
  /-- MREADY = 1 says that MSTORE holds G (R117, R201). -/
  table : s.mready = true → ∀ a, a < 16384 → s.mstore.byte? a = some (tableByte a)
  /-- No context is open: HS, LEN and DIGEST are as reset left them (R118, R170). -/
  idle : s.phase = .idle → s.hs = HashState.zero ∧ s.len = 0 ∧ s.digest = Vector.replicate 32 0
  /-- An open context: the upper half of HS is zero, DIGEST is cleared (R131, R143). -/
  openContext : s.phase = .absorb →
    (∀ i : Fin 128, 64 ≤ i.val → s.hs[i] = 0) ∧ s.digest = Vector.replicate 32 0
  /-- A finished context: the markers stand in HS and DIGEST is the filter of HS (R143, R571). -/
  finished : s.phase = .done →
    s.hs[64] = 0x80 ∧ s.hs[126] = 0x02 ∧
      (∀ i : Fin 128, 64 ≤ i.val → i.val ≠ 64 → i.val ≠ 126 → s.hs[i] = 0) ∧
      s.digest = filter s.hs

/-- Bit k of a column: bit k mod 64 of limb k/64 (R14). -/
def columnBit (a : Column) (k : Nat) : Bool := (a.toList.getD (k / 64) 0).getLsbD (k % 64)

/-- A column is reduced: limbs 8 and 9 zero, bits 63:61 of limb 7 zero (R14). -/
def Reduced (a : Column) : Prop := a[8] = 0 ∧ a[9] = 0 ∧ a[7].extractLsb' 61 3 = 0

/-- The polynomial over GF(2) whose coefficients are the bits 0 to n-1 of a sequence. -/
noncomputable def bitsPoly (n : Nat) (bit : Nat → Bool) : (ZMod 2)[X] :=
  ∑ k ∈ Finset.range n, if bit k then X ^ k else 0

/-- poly(c), the polynomial reading of a column (R14). -/
noncomputable def columnPoly (a : Column) : (ZMod 2)[X] := bitsPoly 640 (columnBit a)

/-- row(p): the polynomial of limbs 0 to 7 of load(p) (R508). -/
noncomputable def rowPoly (rd : MOffset → Byte) (p : Byte) : (ZMod 2)[X] :=
  bitsPoly 512 (columnBit (load rd p))

/-- ext(p): the polynomial of limb 8 of load(p) (R508). -/
noncomputable def extPoly (rd : MOffset → Byte) (p : Byte) : (ZMod 2)[X] :=
  bitsPoly 64 fun k => columnBit (load rd p) (512 + k)

/-- The polynomial of LE512(hs[0..63]) (R523). -/
noncomputable def activePoly (hs : HashState) : (ZMod 2)[X] :=
  bitsPoly 512 fun k => (hs.toList.getD (k / 8) 0).getLsbD (k % 8)

/-- c_i of a mixing pass: row(pb[0]), and row(pb[i]) + x^3 ext(pb[i]) for i in 1..111 (R523). -/
noncomputable def passTerm (rd : MOffset → Byte) (pb : Vector Byte 112) (i : Fin 112) : (ZMod 2)[X] :=
  if i.val = 0 then rowPoly rd pb[i] else rowPoly rd pb[i] + X ^ 3 * extPoly rd pb[i]

/-- a · x^n in GF(2^8) (R424). -/
def gfShift (a : Byte) : Nat → Byte
  | 0 => a
  | n + 1 => xtime (gfShift a n)

/-- a · b in GF(2^8): the sum of a · x^k over the bits k of `b` that are 1 (R424). -/
def gfMul (a b : Byte) : Byte :=
  (List.range 8).foldl (fun acc k => if b.getLsbD k then acc ^^^ gfShift a k else acc) 0

/-- The affine map A of the S-box (R424). -/
def sboxAffine (b : Byte) : Byte :=
  b ^^^ b.rotateLeft 1 ^^^ b.rotateLeft 2 ^^^ b.rotateLeft 3 ^^^ b.rotateLeft 4 ^^^ 0x63

/-- The first 64 primes, the numbers below 312 from 2 on that no number from 2 on below them divides (R561,
R562). -/
def shaPrimes : List Nat :=
  (List.range' 2 310).filter fun p => (List.range' 2 (p - 2)).all fun k => p % k != 0

/-- ROTR32 (R13). -/
def rotr32 (x : Word32) (n : Nat) : Word32 := (x >>> n) ||| (x <<< (32 - n))

/-- SHA-256's padding of a 64-byte message: 0x80, 55 zero bytes, and the 64-bit big-endian bit length 512
(R572). -/
def shaPadding : Vector Byte 64 :=
  Vector.ofFn fun i =>
    if i.val = 0 then 0x80 else if i.val < 56 then 0 else leByte (512 : Word) (63 - i.val)

/-- SHA-256 of a 64-byte message: the compression of the message and of its padding (R572). -/
def sha256Of64 (m : Vector Byte 64) : Vector Byte 32 :=
  digestBytes (compress (compress compressInit m) shaPadding)

/-- An outcome followed by more: the first fault or refusal ends it. -/
def andThen (o : Host.Outcome State Fault Refusal) (f : State → Host.Outcome State Fault Refusal) :
    Host.Outcome State Fault Refusal :=
  match o with
  | .next s => f s
  | .fault r => .fault r
  | .refused r => .refused r

/-- ABSORB on each chunk in order, CHUNK loaded with it before (R312, R581). -/
def absorbEach (chunks : List Chunk) (s : State) : Host.Outcome State Fault Refusal :=
  match chunks with
  | [] => .next s
  | b :: rest => andThen (exec .absorb { s with chunk := b }) (absorbEach rest)

/-- The commands of HASH m after the matrix is there: INIT, ABSORB on each full chunk, FINAL on the remainder
with CHUNK loaded (R312, R581). -/
def hashContext (m : List Byte) (s : State) : Host.Outcome State Fault Refusal :=
  let k := m.length / 48
  andThen (exec .init s) fun s =>
    andThen (absorbEach ((List.range k).map (chunkAt m)) s) fun s =>
      exec (.final (BitVec.ofNat 8 (m.length % 48))) { s with chunk := chunkAt m k }

end Sys2Proof
end

