-- ==== Sys2Proof/Certificates/Slice0/Obligations.lean ====
section
/-! DEFINITION. The statements for the provers; OBLIGATIONS.json lists them. -/

open Sys2Proof Sys2Proof.Machine Polynomial

/-! ### Encoding (30_encoding.md) -/

/-- The words of 95_test_vectors.md section 9 decode to the commands they stand for (R304). -/
def Obligations.SampleWordsDecode : Prop :=
  decode 0x0000000000000000 = .command .nop ∧
  decode 0x0000000000000001 = .command .init ∧
  decode 0x0000000000000002 = .command .absorb ∧
  decode 0x0000000000000c03 = .command (.final 12) ∧
  decode 0x0000000000000010 = .command .genMatrix ∧
  decode 0x0000000008010011 = .command (.mread 2049) ∧
  decode 0x0000000000000020 = .command .aesEnc ∧
  decode 0x0000000000000030 = .command (.colLoadV 0) ∧
  decode 0x0000000000000131 = .command (.colLoadW 1) ∧
  decode 0x0000000000000032 = .command .colMulx ∧
  decode 0x0000000000000033 = .command .colAdd ∧
  decode 0x0000000000000034 = .command .colReduce ∧
  decode 0x000000000000ff35 = .command (.colStep 255) ∧
  decode 0x0000000000000100 = .illegal .nonzeroBits ∧
  decode 0x0000000100000002 = .illegal .nonzeroBits ∧
  decode 0x00000000000000ff = .illegal .unassignedOpc

/-- Decoding the word of any command gives it back, operand and all (R304, R305). -/
def Obligations.DecodeOfEncode : Prop :=
  ∀ i : Instr, decode (encode i) = .command i

/-- Every command has one word: a word that decodes to a command is that command's word (R304, R305). -/
def Obligations.EncodeOfDecode : Prop :=
  ∀ (x : Word) (i : Instr), decode x = .command i → encode i = x

/-- A word decodes to ILLEGAL exactly when it matches no row of the opcode table under that row's mask
(R305, last sentence). -/
def Obligations.IllegalIffNoRow : Prop :=
  ∀ x : Word, (∃ why, decode x = .illegal why) ↔ ∀ row ∈ opcodeTable, x &&& row.2.2 ≠ row.2.1

/-- The byte-order primitives are the sums of R12, and each has its inverse. -/
def Obligations.ByteOrderSums : Prop :=
  (∀ b : Fin 8 → Byte, (le64 b).toNat = ∑ k : Fin 8, (b k).toNat * 2 ^ (8 * k.val)) ∧
  (∀ x : Word, le64 (fun k => leByte x k.val) = x) ∧
  (∀ (b : Fin 8 → Byte) (k : Fin 8), leByte (le64 b) k.val = b k) ∧
  (∀ (x : Word) (k : Fin 8), (le64Bytes x)[k.val]? = some (x.extractLsb' (8 * k.val) 8)) ∧
  (∀ b : Block, (le128 b).toNat = ∑ k : Fin 16, b[k].toNat * 2 ^ (8 * k.val)) ∧
  (∀ x : BitVec 128, le128 (le128Bytes x) = x) ∧
  (∀ b : Block, le128Bytes (le128 b) = b) ∧
  (∀ (x : BitVec 128) (k : Fin 16), (le128Bytes x)[k] = x.extractLsb' (8 * k.val) 8) ∧
  (∀ b : Fin 4 → Byte, (be32 b).toNat = ∑ k : Fin 4, (b k).toNat * 2 ^ (8 * (3 - k.val))) ∧
  (∀ x : Word32, be32 (fun k => beByte x k.val) = x) ∧
  (∀ (b : Fin 4 → Byte) (k : Fin 4), beByte (be32 b) k.val = b k)

/-! ### The step (10_state.md R104, 20_memory.md R220) -/

/-- The engine's step on the pending command is `exec` of the command its word decodes to, and nothing is
added around it (R104). -/
def Obligations.StepRunsPending : Prop :=
  ∀ (s : State) (x : Word) (i : Instr),
    s.pending = some x → engineTurn s = true → decode x = .command i → step s = exec i s

/-- When it is not the engine's turn the step is the host's next access (R220), with one unit of the
pending command's LATENCY used up (the model's `delay`, log 1); with no command pending and no statement
left the state stays as it is (log 3). -/
def Obligations.StepIsHostsOtherwise : Prop :=
  (∀ s : State, s.pending = none → step s = .next (hostStep s)) ∧
  (∀ s : State, s.pending = none → s.script = [] → step s = .next s) ∧
  (∀ (s : State) (x : Word), s.pending = some x → engineTurn s = false →
    step s = .next (hostStep { s with delay := s.delay - 1 }))

/-- With a command pending and the host waiting, one step of the engine and one of the host end the WAIT
with BUSY = 0 (R311, R741). That two steps are enough is the model's choice (log 2): the spec leaves the time open,
and the model lets the engine move at once under a WAIT, the polls that return BUSY = 1 being no steps. -/
def Obligations.WaitEnds : Prop :=
  ∀ (s : State) (rest : List HostStmt), StateInv s → s.pending ≠ none → s.script = .wait :: rest →
    ∃ t, Host.Core.run core 2 s = .next t ∧ t.script = rest ∧ t.pending = none ∧
      t.busy = false ∧ t.reply = .value (statusWord t)

/-! ### NOP, INIT, AES_ENC (40_control.md, 41_cipher.md) -/

/-- NOP completes and changes nothing but BUSY, CDONE and the pending word (R400, R104). -/
def Obligations.NopResult : Prop :=
  ∀ s : State, exec .nop s = .next { s with busy := false, pending := none, cdone := true }

/-- INIT clears HS, LEN and DIGEST, opens a context in any phase, and keeps everything else (R402). -/
def Obligations.InitResult : Prop :=
  ∀ s : State, exec .init s = .next { s with
    hs := Vector.replicate 128 0
    len := 0
    digest := Vector.replicate 32 0
    phase := .absorb
    busy := false
    pending := none
    cdone := true }

/-- AES_ENC writes E(PT) to CT and keeps everything else, PT among it (R430). -/
def Obligations.AesEncResult : Prop :=
  ∀ s : State, exec .aesEnc s = .next { s with
    ct := aesZero s.pt
    busy := false
    pending := none
    cdone := true }

/-- The cipher E: doubling is multiplication by x modulo 0x11B and 3·a is 2·a + a; the S-box is the affine map of
the inverse in GF(2^8), with 0 for the inverse of 0 (R424); the round keys are the key expansion of the all-zero key
(R426); then each transformation on the state array s[r][c], byte r + 4c, entry by entry, and their order (R423,
R427). -/
def Obligations.CipherRounds : Prop :=
  (∀ a : Byte, (xtime a).toNat = (2 * a.toNat) ^^^ (if 128 ≤ a.toNat then 0x11B else 0)) ∧
  (∀ a : Byte, mul3 a = xtime a ^^^ a) ∧
  (∀ a : Byte, ∃ b : Byte, (a = 0 → b = 0) ∧ (a ≠ 0 → gfMul a b = 1) ∧ sbox a = sboxAffine b) ∧
  (let w (n b : Nat) : Byte := roundKeyByte (n / 4) (4 * (n % 4) + b)
   let rcon : List Byte := [0x01, 0x02, 0x04, 0x08, 0x10, 0x20, 0x40, 0x80, 0x1b, 0x36]
   (∀ n b : Fin 4, w n.val b.val = 0) ∧
   ∀ (m : Fin 40) (b : Fin 4),
     let n := m.val + 4
     w n b.val = w (n - 4) b.val ^^^
       (if n % 4 = 0 then
          sbox (w (n - 1) ((b.val + 1) % 4)) ^^^ (if b.val = 0 then rcon.getD (n / 4 - 1) 0 else 0)
        else w (n - 1) b.val)) ∧
  (∀ (s : Block) (k : Nat) (i : Fin 16), (addRoundKey s k)[i] = s[i] ^^^ roundKeyByte k i.val) ∧
  (∀ (s : Block) (i : Fin 16), (subBytes s)[i] = sbox s[i]) ∧
  (∀ (s : Block) (r k : Fin 4),
    (shiftRows s)[r.val + 4 * k.val] = s[r.val + 4 * ((k.val + r.val) % 4)]) ∧
  (∀ (s : Block) (k : Fin 4),
    let a0 := s[0 + 4 * k.val]
    let a1 := s[1 + 4 * k.val]
    let a2 := s[2 + 4 * k.val]
    let a3 := s[3 + 4 * k.val]
    (mixColumns s)[0 + 4 * k.val] = xtime a0 ^^^ mul3 a1 ^^^ a2 ^^^ a3 ∧
    (mixColumns s)[1 + 4 * k.val] = a0 ^^^ xtime a1 ^^^ mul3 a2 ^^^ a3 ∧
    (mixColumns s)[2 + 4 * k.val] = a0 ^^^ a1 ^^^ xtime a2 ^^^ mul3 a3 ∧
    (mixColumns s)[3 + 4 * k.val] = mul3 a0 ^^^ a1 ^^^ a2 ^^^ xtime a3) ∧
  (∀ input : Block,
    let round (s : Block) (k : Nat) : Block := addRoundKey (mixColumns (shiftRows (subBytes s))) k
    let s := addRoundKey input 0
    let s := round (round (round s 1) 2) 3
    let s := round (round (round s 4) 5) 6
    let s := round (round (round s 7) 8) 9
    aesZero input = addRoundKey (shiftRows (subBytes s)) 10)

/-! ### The matrix (42_matrix.md) -/

/-- The counter blocks, byte by byte (R460), and the bytes of G: the four cipher blocks of the row's counters,
bytes 0 and 63 fixed up from the raw byte 63 (R461). -/
def Obligations.TableBytes : Prop :=
  let input (j k : Nat) : Block := le128Bytes ((BitVec.ofNat 128 j <<< 8) ||| BitVec.ofNat 128 k)
  let block (j k : Nat) : Block := aesZero (input j k)
  (∀ (j : Fin 256) (k : Fin 4) (i : Fin 16), (input j.val k.val)[i] =
    if i.val = 0 then BitVec.ofNat 8 k.val else if i.val = 1 then BitVec.ofNat 8 j.val else 0) ∧
  ∀ (j : Fin 256) (i : Fin 64),
    tableByte (64 * j.val + i.val) =
      if i.val = 0 then (block j.val 0)[0] ^^^ ((block j.val 3)[15] >>> 5)
      else if i.val = 63 then (block j.val 3)[15] &&& 0x1F
      else (block j.val (i.val / 16))[i.val % 16]

/-- Byte 63 of every row of G is at most 0x1F, so limb 7 of every row has bits 63:61 zero (R462(a)). -/
def Obligations.TableRowsReduced : Prop :=
  (∀ j : Fin 256, (tableByte (64 * j.val + 63)).toNat ≤ 0x1F) ∧
  (∀ (s : State) (p : Byte), StateInv s → s.mready = true →
    (load s.mstoreByte p)[7].extractLsb' 61 3 = 0)

/-- GEN_MATRIX completes in every state: MSTORE 0 to 16,383 becomes G, MREADY becomes 1, MATRIX_TAIL and
every other field are kept (R463). -/
def Obligations.GenMatrixResult : Prop :=
  ∀ s : State, ∃ t : State, exec .genMatrix s = .next t ∧
    t = { s with
      mstore := t.mstore
      mready := true
      busy := false
      pending := none
      cdone := true } ∧
    (∀ a : MOffset, t.mstoreByte a =
      if a.val < 16384 then tableByte a.val else s.mstoreByte a) ∧
    (∀ a : Nat, a < 16384 → t.mstore.byte? a = some (tableByte a)) ∧
    (s.mstore.wf → t.mstore.wf)

/-- With MREADY = 1 GEN_MATRIX leaves MSTORE as it is, as data and not only as reads (R225, R463). -/
def Obligations.GenMatrixRepeats : Prop :=
  ∀ s : State, StateInv s → s.mready = true →
    exec .genMatrix s = .next { s with busy := false, pending := none, cdone := true }

/-- MREAD of a legal index writes LE64 of the 8 bytes of MSTORE at 8 idx and keeps everything else (R465). -/
def Obligations.MreadResult : Prop :=
  ∀ (s : State) (idx : Half) (h : idx.toNat ≤ 2049),
    exec (.mread idx) s = .next { s with
      mdata := le64 fun k => s.mstoreByte ⟨8 * idx.toNat + k.val, by omega⟩
      busy := false
      pending := none
      cdone := true }

/-- Once the matrix is there, MREAD of 0 to 2047 gives words of G, and 2048 and 2049 the two halves of
MATRIX_TAIL (R465). -/
def Obligations.MreadOfReadyMatrix : Prop :=
  ∀ (s t : State) (idx : Half), StateInv s → s.mready = true → exec (.mread idx) s = .next t →
    (idx.toNat ≤ 2047 → t.mdata = le64 fun k => tableByte (8 * idx.toNat + k.val)) ∧
    (idx.toNat = 2048 → t.mdata = le64 fun k => Config.matrixTail ⟨k.val, by omega⟩) ∧
    (idx.toNat = 2049 → t.mdata = le64 fun k => Config.matrixTail ⟨8 + k.val, by omega⟩)

/-- The forms the block never accepts: an operand out of range makes `exec` stop by name (log 12), and
IssueCmd refuses the word with BAD_OPERAND (R306, R603). -/
def Obligations.OutOfRangeNeverRuns : Prop :=
  (∀ (s : State) (r : Byte), 47 < r.toNat → exec (.final r) s = .fault .operandOutOfRange) ∧
  (∀ (s : State) (idx : Half), 2049 < idx.toNat →
    exec (.mread idx) s = .fault .operandOutOfRange) ∧
  (∀ (s : State) (i : Instr), i.WellFormed = false → s.busy = false → s.err = false →
    issueCmd (encode i) s = raiseError .badOperand (encode i) s)

/-! ### The column datapath (43_column.md) -/

/-- The column window: byte i of limb k of load(pos) is the byte of MSTORE at 64 pos + 8k + i; words 8 and 9
are words 0 and 1 of the next position's window, and MATRIX_TAIL for position 255 (R500, R205, R206). -/
def Obligations.ColumnWindow : Prop :=
  (∀ (rd : MOffset → Byte) (pos : Byte) (k : Fin 10) (i : Fin 8),
    leByte (load rd pos)[k] i.val =
      rd ⟨64 * pos.toNat + 8 * k.val + i.val, by have := pos.isLt; omega⟩) ∧
  (∀ (rd : MOffset → Byte) (pos : Byte), pos.toNat ≤ 254 →
    (load rd pos)[8] = (load rd (pos + 1))[0] ∧ (load rd pos)[9] = (load rd (pos + 1))[1]) ∧
  (∀ s : State,
    (load s.mstoreByte 255)[8] = le64 (fun i => Config.matrixTail ⟨i.val, by omega⟩) ∧
    (load s.mstoreByte 255)[9] = le64 (fun i => Config.matrixTail ⟨8 + i.val, by omega⟩))

/-- COL_LOAD_V and COL_LOAD_W complete for every position, write all ten limbs of V or of W, unreduced, and
keep everything else (R510, R511). -/
def Obligations.ColLoadResults : Prop :=
  (∀ (s : State) (pos : Byte), exec (.colLoadV pos) s = .next { s with
    v := load s.mstoreByte pos
    busy := false
    pending := none
    cdone := true }) ∧
  (∀ (s : State) (pos : Byte), exec (.colLoadW pos) s = .next { s with
    w := load s.mstoreByte pos
    busy := false
    pending := none
    cdone := true })

/-- COL_MULX moves every limb of V up two places, clears limbs 0 and 1, discards limbs 8 and 9, and keeps
everything else; five in a row make V zero (R501, R512). -/
def Obligations.ColMulxResult : Prop :=
  (∀ s : State, ∃ t : State, exec .colMulx s = .next t ∧
    t = { s with v := t.v, busy := false, pending := none, cdone := true } ∧
    t.v[0] = 0 ∧ t.v[1] = 0 ∧ ∀ i : Fin 8, t.v[i.val + 2] = s.v[i.val]) ∧
  (∀ a : Column, mulX128 (mulX128 (mulX128 (mulX128 (mulX128 a)))) = Vector.replicate 10 0)

/-- COL_ADD adds limbs 0 to 8 of W into V, keeps V9 and everything else; twice restores V (R502, R513). -/
def Obligations.ColAddResult : Prop :=
  (∀ s : State, ∃ t : State, exec .colAdd s = .next t ∧
    t = { s with v := t.v, busy := false, pending := none, cdone := true } ∧
    (∀ i : Fin 9, t.v[i.val] = s.v[i.val] ^^^ s.w[i.val]) ∧ t.v[9] = s.v[9]) ∧
  (∀ a w : Column, add (add a w) w = a)

/-- COL_REDUCE gives V the statement list of R504, performed in its order on 64-bit limbs, and keeps
everything else (R504, R514). -/
def Obligations.ColReduceResult : Prop :=
  ∀ s : State,
    let a := s.v
    let a := a.set 0 (a[0] ^^^ (a[7] >>> 61))
    let a := a.set 0 (a[0] ^^^ (a[8] <<< 3))
    let a := a.set 1 (a[1] ^^^ (a[8] >>> 61))
    let a := a.set 1 (a[1] ^^^ (a[9] <<< 3))
    let a := a.set 2 (a[2] ^^^ (a[9] >>> 61))
    let a := a.set 7 (a[7] &&& 0x1FFFFFFFFFFFFFFF)
    let a := a.set 8 0
    let a := a.set 9 0
    exec .colReduce s = .next { s with v := a, busy := false, pending := none, cdone := true }

/-- COL_STEP completes: W is load(pos), V is reduce(add(mulX128(V), load(pos))), everything else is kept; and
it leaves the state that COL_LOAD_W pos, COL_MULX, COL_ADD and COL_REDUCE leave in that order (R503, R515). -/
def Obligations.ColStepResult : Prop :=
  (∀ (s : State) (pos : Byte), exec (.colStep pos) s = .next { s with
    w := load s.mstoreByte pos
    v := reduce (add (mulX128 s.v) (load s.mstoreByte pos))
    busy := false
    pending := none
    cdone := true }) ∧
  (∀ (s : State) (pos : Byte),
    exec (.colStep pos) s =
      andThen (exec (.colLoadW pos) s) fun s =>
        andThen (exec .colMulx s) fun s =>
          andThen (exec .colAdd s) fun s => exec .colReduce s)

/-- reduce is the canonical residue modulo x^509 + 1, and moves bit 509 + t to bit t (R505). -/
def Obligations.ReduceIsResidue : Prop :=
  ∀ a : Column,
    Reduced (reduce a) ∧
    columnPoly (reduce a) = columnPoly a %ₘ (X ^ 509 + 1) ∧
    ∀ k : Nat, columnBit (reduce a) k =
      if k < 131 then (columnBit a k).xor (columnBit a (509 + k))
      else if k < 509 then columnBit a k else false

/-- mulX128 is multiplication by x^128 of the low 512 bits, and loses nothing of a reduced column (R506). -/
def Obligations.MulxIsMultiplication : Prop :=
  ∀ a : Column,
    columnPoly (mulX128 a) = X ^ 128 * (columnPoly a %ₘ X ^ 512) ∧
    (Reduced a → columnPoly (mulX128 a) = X ^ 128 * columnPoly a ∧
      (columnPoly (mulX128 a)).natDegree < 637)

/-- After COL_REDUCE, COL_STEP, ABSORB and FINAL, V is reduced, whatever it was before (R507). -/
def Obligations.ReductionInvariant : Prop :=
  (∀ a : Column, (reduce a)[8] = 0 ∧ (reduce a)[9] = 0 ∧ (reduce a)[7].extractLsb' 61 3 = 0) ∧
  (∀ (s t : State) (i : Instr),
    (i = .colReduce ∨ (∃ pos, i = .colStep pos) ∨ i = .absorb ∨ ∃ r, i = .final r) →
    exec i s = .next t →
      t.v[8] = 0 ∧ t.v[9] = 0 ∧ t.v[7].extractLsb' 61 3 = 0)

/-- The step algebra: limb 9 of the load is never added and limb 9 of the sum is v[7]; one step is multiplication
by x^128 and addition modulo x^509 + 1; ext has degree below 64 and, where the matrix is, row below 509
(R508). -/
def Obligations.StepAlgebra : Prop :=
  (∀ (rd : MOffset → Byte) (v : Column) (p : Byte),
    columnPoly (add (mulX128 v) (load rd p)) =
      X ^ 128 * (columnPoly v %ₘ X ^ 512) + rowPoly rd p + X ^ 512 * extPoly rd p ∧
    (add (mulX128 v) (load rd p))[9] = v[7] ∧
    columnPoly (stepWith v (load rd p)) =
      (X ^ 128 * (columnPoly v %ₘ X ^ 512) + rowPoly rd p + X ^ 3 * extPoly rd p) %ₘ
        (X ^ 509 + 1) ∧
    (Reduced v → columnPoly (stepWith v (load rd p)) =
      (X ^ 128 * columnPoly v + rowPoly rd p + X ^ 3 * extPoly rd p) %ₘ (X ^ 509 + 1)) ∧
    stepWith v (load rd p) = reduce (add (mulX128 v) (load rd p)) ∧
    (extPoly rd p).natDegree < 64) ∧
  ∀ (s : State) (p : Byte), StateInv s → s.mready = true → (rowPoly s.mstoreByte p).natDegree < 509

/-! ### The mixer (44_mixer.md) -/

/-- ABSORB completes in every state: HS0 to HS7 become V0 to V7, the upper half of HS is kept, W is the load
of the last position, LEN grows by 48, everything else is kept, CHUNK and PHASE among it (R521, R525,
R526). -/
def Obligations.AbsorbResult : Prop :=
  ∀ s : State, ∃ t : State, exec .absorb s = .next t ∧
    t = { s with
      hs := t.hs
      v := t.v
      w := t.w
      len := s.len + 48
      busy := false
      pending := none
      cdone := true } ∧
    (∀ k : Fin 8, regValue (.hs ⟨k.val, by omega⟩) t = t.v[k.val]) ∧
    (∀ i : Fin 128, 64 ≤ i.val → t.hs[i] = s.hs[i]) ∧
    t.w = load s.mstoreByte s.chunk[47] ∧
    t.v = (((s.hs.toList.take 64 ++ s.chunk.toList).drop 1).foldl
      (fun v p => reduce (add (mulX128 v) (load s.mstoreByte p))) (load s.mstoreByte s.hs[0]))

/-- The closed form of a mixing pass: the new active half of HS is the Horner sum of its 112 positions
modulo x^509 + 1, of degree below 509; the weight of position i is x^((128 (111 - i)) mod 509), that of position 0
x^465; and the term of a position depends on its byte alone (R523). -/
def Obligations.MixClosedForm : Prop :=
  (∀ (rd : MOffset → Byte) (hs : HashState) (chunk : Chunk),
    activePoly (mix rd hs chunk).hs =
      (∑ i : Fin 112, X ^ (128 * (111 - i.val)) * passTerm rd (positionBuffer hs chunk) i) %ₘ
        (X ^ 509 + 1) ∧
    (activePoly (mix rd hs chunk).hs).natDegree < 509 ∧
    activePoly (mix rd hs chunk).hs =
      (∑ i : Fin 112, X ^ (128 * (111 - i.val) % 509) * passTerm rd (positionBuffer hs chunk) i) %ₘ
        (X ^ 509 + 1)) ∧
  128 * (111 - 0) % 509 = 465 ∧
  ∀ (rd : MOffset → Byte) (pb pb' : Vector Byte 112) (i : Fin 112),
    pb[i] = pb'[i] → passTerm rd pb i = passTerm rd pb' i

/-- The tail dependence of a pass: without position 255 at an index 1 to 111 the pass is the same for every
MATRIX_TAIL, and tail bytes 8 to 15 never reach HS or V (R524, R207). -/
def Obligations.TailIndependence : Prop :=
  ∀ (rd rd' : MOffset → Byte) (hs : HashState) (chunk : Chunk),
    ((∀ a : MOffset, a.val < 16384 → rd a = rd' a) →
      (∀ i : Fin 112, 1 ≤ i.val → (positionBuffer hs chunk)[i] ≠ 255) →
      mix rd hs chunk = mix rd' hs chunk) ∧
    ((∀ a : MOffset, a.val < 16392 → rd a = rd' a) →
      (mix rd hs chunk).hs = (mix rd' hs chunk).hs ∧ (mix rd hs chunk).v = (mix rd' hs chunk).v)

/-! ### Padding, filter, FINAL (45_padding.md, 46_output_filter.md) -/

/-- The pad's length and contents: the remainder, zeros, and LE64bytes(L) in the last 8 bytes; and MixPad makes
one pass for a remainder of at most 40 bytes, two for a longer one, the second seeded by the first (R540, R541,
R542). -/
def Obligations.PadAndItsPasses : Prop :=
  ∀ (rem : List Byte) (len : Word), rem.length ≤ 47 →
    (let n := if rem.length ≤ 40 then 48 else 96
     (pad rem len).length = n ∧
     (∀ i, i < rem.length → (pad rem len)[i]? = rem[i]?) ∧
     (∀ i, rem.length ≤ i → i < n - 8 → (pad rem len)[i]? = some 0) ∧
     (∀ k, k < 8 → (pad rem len)[n - 8 + k]? = some (len.extractLsb' (8 * k) 8)) ∧
     rem.length ≤ n - 8) ∧
    ∀ (rd : MOffset → Byte) (hs : HashState),
      (rem.length ≤ 40 → mixPad rd hs (pad rem len) = mix rd hs (chunkAt (pad rem len) 0)) ∧
      (41 ≤ rem.length → mixPad rd hs (pad rem len) =
        mix rd (mix rd hs (chunkAt (pad rem len) 0)).hs (chunkAt (pad rem len) 1))

/-- FINAL of a legal remainder completes: the pad of chunk[0..r-1] and LEN + r is mixed, the markers are set,
DIGEST is the filter of the new HS, PHASE becomes DONE, everything else is kept (R570, R580). -/
def Obligations.FinalResult : Prop :=
  ∀ (s : State) (r : Byte), r.toNat ≤ 47 →
    ∃ t : State, exec (.final r) s = .next t ∧
      t = { s with
        hs := t.hs
        v := t.v
        w := t.w
        len := s.len + BitVec.ofNat 64 r.toNat
        digest := filter t.hs
        phase := .done
        busy := false
        pending := none
        cdone := true } ∧
      (let m := mixPad s.mstoreByte s.hs (pad (s.chunk.toList.take r.toNat) t.len)
       (∀ i : Fin 64, t.hs[i.val] = m.hs[i.val]) ∧ t.v = m.v ∧ t.w = m.w) ∧
      t.hs[64] = 0x80 ∧ t.hs[126] = 0x02 ∧
      (∀ i : Fin 128, 64 ≤ i.val → i.val ≠ 64 → i.val ≠ 126 → t.hs[i] = s.hs[i])

/-- FINAL r reads CHUNK bytes 0 to r-1 only: the bytes from r on change nothing it computes (R580, R608). -/
def Obligations.FinalIgnoresRest : Prop :=
  ∀ (s : State) (r : Byte) (b : Chunk),
    (∀ i : Fin 48, i.val < r.toNat → b[i] = s.chunk[i]) →
      exec (.final r) { s with chunk := b } =
        andThen (exec (.final r) s) fun t => .next { t with chunk := b }

/-- With the markers in place the second half of HS is SHA-256's padding of 64 bytes, and the filter is SHA-256 of
the active half (R572). And SHA-256 is meant: H_0 and K are the first 32 bits of the fractional parts of the square
roots of the first 8 and of the cube roots of the first 64 primes (R561, R562), the schedule is that of R564, C is the
64 rounds and the final addition of R565 on the functions of R563, and the digest bytes are BE32bytes of its words
(R571). -/
def Obligations.FilterIsSha256 : Prop :=
  (∀ t : Fin 8, ∃ n : Nat, n ^ 2 ≤ shaPrimes.getD t.val 0 * 2 ^ 64 ∧
    shaPrimes.getD t.val 0 * 2 ^ 64 < (n + 1) ^ 2 ∧ compressInit[t].toNat = n % 2 ^ 32) ∧
  (∀ t : Fin 64, ∃ n : Nat, n ^ 3 ≤ shaPrimes.getD t.val 0 * 2 ^ 96 ∧
    shaPrimes.getD t.val 0 * 2 ^ 96 < (n + 1) ^ 3 ∧ (compressK.getD t.val 0).toNat = n % 2 ^ 32) ∧
  (∀ b : Vector Byte 64,
    let w (t : Nat) : Word32 := (schedule b).getD t 0
    (schedule b).length = 64 ∧
    (∀ t : Fin 16, w t.val = be32 fun i => b[4 * t.val + i.val]) ∧
    ∀ t : Fin 48,
      let x1 := w (t.val + 14)
      let x0 := w (t.val + 1)
      w (t.val + 16) = (rotr32 x1 17 ^^^ rotr32 x1 19 ^^^ (x1 >>> 10)) + w (t.val + 9) +
        (rotr32 x0 7 ^^^ rotr32 x0 18 ^^^ (x0 >>> 3)) + w t.val) ∧
  (∀ (h : Digest8) (b : Vector Byte 64),
    let round (x : Digest8) (t : Nat) : Digest8 :=
      let a := x[0]
      let e := x[4]
      let t1 := x[7] + (rotr32 e 6 ^^^ rotr32 e 11 ^^^ rotr32 e 25) +
        ((e &&& x[5]) ^^^ (~~~e &&& x[6])) + compressK.getD t 0 + (schedule b).getD t 0
      let t2 := (rotr32 a 2 ^^^ rotr32 a 13 ^^^ rotr32 a 22) +
        ((a &&& x[1]) ^^^ (a &&& x[2]) ^^^ (x[1] &&& x[2]))
      #v[t1 + t2, a, x[1], x[2], x[3] + t1, e, x[5], x[6]]
    ∀ i : Fin 8, (compress h b)[i] = h[i] + ((List.range 64).foldl round h)[i]) ∧
  (∀ (h : Digest8) (t : Fin 8) (k : Fin 4),
    (digestBytes h)[4 * t.val + k.val] = h[t].extractLsb' (8 * (3 - k.val)) 8) ∧
  ∀ hs : HashState, hs[64] = 0x80 → hs[126] = 0x02 →
    (∀ i : Fin 128, 64 ≤ i.val → i.val ≠ 64 → i.val ≠ 126 → hs[i] = 0) →
      (Vector.ofFn fun (i : Fin 64) => hs[64 + i.val]) = shaPadding ∧
      filter hs = sha256Of64 (Vector.ofFn fun i => hs[i.val])

/-- A complete context computes `hash`: INIT, ABSORB on each full chunk and FINAL on the remainder leave
hash(m) in DIGEST and the length in LEN, whatever the state before (R312, R581, R582). -/
def Obligations.ContextComputesHash : Prop :=
  ∀ (s : State) (m : List Byte), m.length < 2 ^ 64 →
    ∃ t : State, hashContext m s = .next t ∧
      t.digest = hashMessage s.mstoreByte m ∧ t.len.toNat = m.length ∧ t.phase = .done

/-! ### Issue and errors (60_exceptions.md) -/

/-- Recording: the first error sets ERR, ERRCODE and ERRINFO, a later one sets only ERROVF, and nothing else
of the block changes (R610). The codes are the six values of R601. The model's record `runFaulted` (log 11) is left
open here. -/
def Obligations.RaiseRecords : Prop :=
  (errorNumber .illegalCmd = 0x01 ∧ errorNumber .badOperand = 0x02 ∧
    errorNumber .matrixNotReady = 0x03 ∧ errorNumber .sequence = 0x04 ∧
    errorNumber .lengthOverflow = 0x05 ∧ errorNumber .busyWrite = 0x06) ∧
  ∀ (s : State) (c : ErrorCode) (info : Word),
    (s.err = false → raiseError c info s = { s with
      err := true
      errcode := errorNumber c
      errinfo := info
      runFaulted := (raiseError c info s).runFaulted }) ∧
    (s.err = true → raiseError c info s = { s with
      errovf := true
      runFaulted := (raiseError c info s).runFaulted })

/-- A CMD write while ERR = 1 (and BUSY = 0) is discarded undecoded: it sets ERROVF and changes nothing else
(R604). -/
def Obligations.DiscardWhileError : Prop :=
  ∀ (s : State) (x : Word), s.busy = false → s.err = true →
    writeReg .cmd x s = { s with errovf := true }

/-- The issue procedure: every condition in its order with its outcome, and the acceptance when none holds (R603,
R605). The model's count of LATENCY (`delay`, `issued`, log 1) is left open at the acceptance. -/
def Obligations.IssueCheckOrder : Prop :=
  (∀ (s : State) (x : Word), s.busy = true → issueCmd x s = raiseError .busyWrite 0x18 s) ∧
  (∀ (s : State) (x : Word), s.busy = false → s.err = true →
    issueCmd x s = { s with errovf := true }) ∧
  ∀ (s : State) (x : Word), s.busy = false → s.err = false →
    (∀ why, decode x = .illegal why → issueCmd x s = raiseError .illegalCmd x s) ∧
    (∀ i, decode x = .command i →
      let badOperand := (∃ r, i = .final r ∧ 47 < r.toNat) ∨ ∃ idx, i = .mread idx ∧ 2049 < idx.toNat
      let noMatrix := s.mready = false ∧
        (i = .absorb ∨ (∃ r, i = .final r) ∨ (∃ idx, i = .mread idx) ∨
          (∃ p, i = .colLoadV p) ∨ (∃ p, i = .colLoadW p) ∨ ∃ p, i = .colStep p)
      let noContext := s.phase ≠ .absorb ∧ (i = .absorb ∨ ∃ r, i = .final r)
      let overflow := (i = .absorb ∧ s.len.toNat + 48 > 2 ^ 64 - 1) ∨
        ∃ r, i = .final r ∧ s.len.toNat + r.toNat > 2 ^ 64 - 1
      (badOperand → issueCmd x s = raiseError .badOperand x s) ∧
      (¬ badOperand → noMatrix → issueCmd x s = raiseError .matrixNotReady x s) ∧
      (¬ badOperand → ¬ noMatrix → noContext → issueCmd x s = raiseError .sequence x s) ∧
      (¬ badOperand → ¬ noMatrix → ¬ noContext → overflow →
        issueCmd x s = raiseError .lengthOverflow x s) ∧
      (¬ badOperand → ¬ noMatrix → ¬ noContext → ¬ overflow → issueCmd x s = { s with
        pending := some x
        busy := true
        delay := (issueCmd x s).delay
        issued := (issueCmd x s).issued }))

/-- Precision: a CMD write that is not accepted changes nothing but ERR, ERRCODE, ERRINFO and ERROVF (and the
model's record of R613, which every raise sets, log 11); an accepted one sets only the pending word and BUSY, with
LATENCY's bookkeeping (log 1) (R611, R603). -/
def Obligations.RefusedChangesNothing : Prop :=
  (∀ (s : State) (x : Word),
    issueCmd x s = { s with
      err := (issueCmd x s).err
      errcode := (issueCmd x s).errcode
      errinfo := (issueCmd x s).errinfo
      errovf := (issueCmd x s).errovf
      runFaulted := (issueCmd x s).runFaulted } ∨
    (s.busy = false ∧ s.err = false ∧ issueCmd x s = { s with
      pending := some x
      busy := true
      delay := Config.latency s.issued
      issued := s.issued + 1 })) ∧
  ∀ (s : State) (c : ErrorCode) (info : Word), (raiseError c info s).runFaulted = true

/-- What a write does besides RW registers that are idle: while busy, CMD, CHUNK, PT, V and W are discarded with
BUSY_WRITE and their offset, CTRL and STATUS take effect as when idle (R108, R606); a write to a read-only
register is ignored and raises nothing, busy or not (R106, R608). -/
def Obligations.GuardedAndIgnoredWrites : Prop :=
  (∀ (s : State) (x : Word), s.busy = true →
    writeReg .cmd x s = raiseError .busyWrite 0x018 s ∧
    (∀ k : Fin 6, writeReg (.chunk k) x s =
      raiseError .busyWrite (0x040 + 8 * BitVec.ofNat 64 k.val) s) ∧
    (∀ k : Fin 2, writeReg (.pt k) x s =
      raiseError .busyWrite (0x070 + 8 * BitVec.ofNat 64 k.val) s) ∧
    (∀ k : Fin 10, writeReg (.v k) x s =
      raiseError .busyWrite (0x180 + 8 * BitVec.ofNat 64 k.val) s) ∧
    (∀ k : Fin 10, writeReg (.w k) x s =
      raiseError .busyWrite (0x1D0 + 8 * BitVec.ofNat 64 k.val) s) ∧
    writeReg .ctrl x s = writeCtrl x s ∧
    writeReg .status x s = writeStatus x s) ∧
  (∀ (s : State) (x : Word),
    writeReg .id x s = s ∧ writeReg .errinfo x s = s ∧ writeReg .len x s = s ∧
    writeReg .mdata x s = s ∧ (∀ k, writeReg (.ct k) x s = s) ∧
    (∀ k, writeReg (.digest k) x s = s) ∧ (∀ k, writeReg (.hs k) x s = s))

/-- Which accesses are refused with a bus error: every width but 64 bits, every offset that is no multiple of
8, is outside the window or is reserved; such an access changes nothing of the block (R106, R211, R607).
That R211's refusal takes in every offset of 0x400 and above is the model's choice (log 10); the answer and the
run's record are the model's own fields (log 4, 11). -/
def Obligations.BusErrors : Prop :=
  ∀ (s : State) (off width : Nat) (x : Word),
    let bad := width ≠ 64 ∨ off % 8 ≠ 0 ∨ 0x400 ≤ off ∨ off = 0x038 ∨
      (0x0B0 ≤ off ∧ off < 0x100) ∨ 0x220 ≤ off
    (bad → busRead off width s = { s with reply := .busError, runFaulted := true } ∧
      busWrite off width x s = { s with reply := .busError, runFaulted := true }) ∧
    (¬ bad → ∃ r : Reg, regOffset r = off ∧ busRead off width s = readReg r s ∧
      busWrite off width x s = { writeReg r x s with reply := .ack })

/-! ### Registers (10_state.md) -/

/-- The byte mapping: NAMEk of a byte array is LE64 of its bytes 8k to 8k+7, and a write of x to CHUNKk or PTk while
BUSY = 0 sets those bytes to LE64bytes(x) and no others (R109); ID reads its constant and CMD reads 0, in every
state. -/
def Obligations.ByteMapping : Prop :=
  (∀ s : State,
    (∀ k : Fin 6, regValue (.chunk k) s = le64 fun i => s.chunk[8 * k.val + i.val]) ∧
    (∀ k : Fin 2, regValue (.pt k) s = le64 fun i => s.pt[8 * k.val + i.val]) ∧
    (∀ k : Fin 2, regValue (.ct k) s = le64 fun i => s.ct[8 * k.val + i.val]) ∧
    (∀ k : Fin 4, regValue (.digest k) s = le64 fun i => s.digest[8 * k.val + i.val]) ∧
    (∀ k : Fin 16, regValue (.hs k) s = le64 fun i => s.hs[8 * k.val + i.val]) ∧
    regValue .id s = 0x0139303542534652 ∧ regValue .cmd s = 0) ∧
  ∀ (s : State) (x : Word), s.busy = false →
    (∀ k : Fin 6,
      let t := writeReg (.chunk k) x s
      t = { s with chunk := t.chunk } ∧
      (∀ i : Fin 8, t.chunk[8 * k.val + i.val] = x.extractLsb' (8 * i.val) 8) ∧
      ∀ j : Fin 48, j.val / 8 ≠ k.val → t.chunk[j] = s.chunk[j]) ∧
    ∀ k : Fin 2,
      let t := writeReg (.pt k) x s
      t = { s with pt := t.pt } ∧
      (∀ i : Fin 8, t.pt[8 * k.val + i.val] = x.extractLsb' (8 * i.val) 8) ∧
      ∀ j : Fin 16, j.val / 8 ≠ k.val → t.pt[j] = s.pt[j]

/-- A write to CHUNK, PT, V or W while BUSY = 0 is read back, and every other register of the window keeps its
value (R106, R109). -/
def Obligations.WriteReadsBack : Prop :=
  ∀ (s : State) (x : Word) (r : Reg), s.busy = false →
    ((∃ k, r = .chunk k) ∨ (∃ k, r = .pt k) ∨ (∃ k, r = .v k) ∨ ∃ k, r = .w k) →
      regValue r (writeReg r x s) = x ∧
      ∀ r' : Reg, r' ≠ r → regValue r' (writeReg r x s) = regValue r' s

/-- Reads change no register: only the answer, and the counter of draws, which are the model's own fields;
while BUSY = 1 the registers a command writes return a free value (R107, R212, log 8). -/
def Obligations.ReadsHaveNoEffect : Prop :=
  (∀ (s : State) (off width : Nat), busRead off width s = { s with
    reply := (busRead off width s).reply
    draws := (busRead off width s).draws
    runFaulted := (busRead off width s).runFaulted }) ∧
  (∀ (s : State) (r : Reg), (s.busy = false ∨
      r = .id ∨ r = .ctrl ∨ r = .status ∨ r = .cmd ∨ r = .errinfo ∨ (∃ k, r = .chunk k) ∨
      (∃ k, r = .pt k)) →
    readReg r s = { s with reply := .value (regValue r s) }) ∧
  (∀ (s : State) (r : Reg), s.busy = true →
    (r = .len ∨ r = .mdata ∨ (∃ k, r = .ct k) ∨ (∃ k, r = .digest k) ∨ (∃ k, r = .hs k) ∨
      (∃ k, r = .v k) ∨ ∃ k, r = .w k) →
    readReg r s = { s with reply := .value (Config.readDraw s.draws), draws := s.draws + 1 })

/-- The fields of STATUS (R115), with the PHASE encoding of R118. -/
def Obligations.StatusFields : Prop :=
  ∀ s : State,
    (statusWord s).getLsbD 0 = s.busy ∧
    (statusWord s).getLsbD 1 = s.mready ∧
    (statusWord s).extractLsb' 2 2 =
      (match s.phase with | .idle => 0 | .absorb => 1 | .done => 2) ∧
    (statusWord s).getLsbD 4 = s.cdone ∧
    (statusWord s).getLsbD 5 = s.err ∧
    (statusWord s).getLsbD 6 = s.errovf ∧
    (statusWord s).getLsbD 7 = false ∧
    (statusWord s).extractLsb' 8 8 = s.errcode ∧
    (statusWord s).extractLsb' 16 48 = 0

/-- A write to STATUS clears exactly the W1C bits written 1, CLRERR with the error record (R115, R612). -/
def Obligations.StatusWrite : Prop :=
  ∀ (s : State) (x : Word), writeReg .status x s = { s with
    cdone := s.cdone && !x.getLsbD 4
    err := s.err && !x.getLsbD 5
    errcode := if x.getLsbD 5 then 0 else s.errcode
    errinfo := if x.getLsbD 5 then 0 else s.errinfo
    errovf := s.errovf && !x.getLsbD 6 }

/-- A write to CTRL: bit 0 makes a soft reset and CTRL reads 0 after it; otherwise bits 1 and 2 are the
enables, and CTRL reads them back with bit 0 and bits 63:3 zero (R111, R112). -/
def Obligations.CtrlWrite : Prop :=
  ∀ (s : State) (x : Word),
    (x.getLsbD 0 = true → writeReg .ctrl x s = softReset s ∧
      regValue .ctrl (writeReg .ctrl x s) = 0) ∧
    (x.getLsbD 0 = false →
      writeReg .ctrl x s = { s with ieDone := x.getLsbD 1, ieErr := x.getLsbD 2 } ∧
      regValue .ctrl (writeReg .ctrl x s) = x &&& 0x6)

/-! ### Resets and the interrupt (70_reset_and_hazards.md, 60_exceptions.md) -/

/-- Hardware reset: every field of R100 as the table of R170 gives it, whatever the state was; MSTORE is G and
MREADY 1 if PRELOADED, and MREADY 0 if EMPTY, where MSTORE is a draw and nothing is said of it (R700). -/
def Obligations.HardResetValues : Prop :=
  ∀ s : State, ∀ t ∈ [State.reset, hardReset s],
    t.ieDone = false ∧ t.ieErr = false ∧ t.busy = false ∧ t.pending = none ∧ t.phase = .idle ∧
    t.cdone = false ∧ t.err = false ∧ t.errovf = false ∧ t.errcode = 0 ∧ t.errinfo = 0 ∧
    t.len = 0 ∧ t.mdata = 0 ∧ t.chunk = Vector.replicate 48 0 ∧ t.pt = Vector.replicate 16 0 ∧
    t.ct = Vector.replicate 16 0 ∧ t.digest = Vector.replicate 32 0 ∧
    t.hs = Vector.replicate 128 0 ∧ t.v = Vector.replicate 10 0 ∧ t.w = Vector.replicate 10 0 ∧
    irq t = false ∧
    (Config.matrixAtReset = .preloaded → t.mready = true ∧
      ∀ a : MOffset, a.val < 16384 → t.mstoreByte a = tableByte a.val) ∧
    (Config.matrixAtReset = .empty → t.mready = false)

/-- Soft reset, busy or not, ERR or not: every field of R100 takes its reset value except MREADY and MSTORE, the
pending command is discarded with none of its effects, and CTRL reads 0 (R702). The model's own fields go on. -/
def Obligations.SoftResetValues : Prop :=
  ∀ s : State, softReset s = { State.reset with
      mready := s.mready
      mstore := s.mstore
      script := s.script
      reply := s.reply
      issued := s.issued
      draws := s.draws
      epoch := s.epoch
      runFaulted := s.runFaulted } ∧
    (softReset s).pending = none ∧ (softReset s).busy = false ∧ (softReset s).phase = .idle ∧
    (softReset s).hs = Vector.replicate 128 0 ∧ (softReset s).len = 0 ∧
    (softReset s).v = Vector.replicate 10 0 ∧ (softReset s).w = Vector.replicate 10 0 ∧
    (softReset s).chunk = Vector.replicate 48 0 ∧ (softReset s).err = false ∧
    (∀ a, (softReset s).mstoreByte a = s.mstoreByte a) ∧
    regValue .ctrl (softReset s) = 0 ∧ irq (softReset s) = false

/-- The interrupt request is (cdone & ie_done) | (err & ie_err), and a completion raises it in the same step
exactly if IE_DONE is 1 or an enabled error is recorded (R164, R630, R631). -/
def Obligations.InterruptRequest : Prop :=
  (∀ s : State, irq s = ((s.cdone && s.ieDone) || (s.err && s.ieErr))) ∧
  (∀ (s t : State) (i : Instr), exec i s = .next t →
    irq t = (s.ieDone || (s.err && s.ieErr)))

/-! ### The whole machine -/

/-- Every command's completion clears BUSY and the pending word and sets CDONE, and no command changes the
enables, the error record, CHUNK, PT or the host's side (R104, R123, R128, R129, R600). -/
def Obligations.EveryCompletion : Prop :=
  ∀ (i : Instr) (s t : State), exec i s = .next t →
    t.busy = false ∧ t.pending = none ∧ t.cdone = true ∧
    t.ieDone = s.ieDone ∧ t.ieErr = s.ieErr ∧ t.err = s.err ∧ t.errovf = s.errovf ∧
    t.errcode = s.errcode ∧ t.errinfo = s.errinfo ∧ t.chunk = s.chunk ∧ t.pt = s.pt ∧
    t.script = s.script ∧ t.reply = s.reply ∧ t.delay = s.delay ∧ t.issued = s.issued ∧
    t.draws = s.draws ∧ t.epoch = s.epoch ∧ t.runFaulted = s.runFaulted

/-- Every command with an operand in its legal range completes, in every state (R600, R509). -/
def Obligations.EveryCommandCompletes : Prop :=
  ∀ (i : Instr) (s : State), i.WellFormed = true → ∃ t : State, exec i s = .next t

/-- The invariant holds at reset. -/
def Obligations.InvariantAtReset : Prop := StateInv State.reset

/-- Every step keeps the invariant (R104, R117, R122, R143, R600, R603, R611, R613). -/
def Obligations.StepKeepsInvariant : Prop :=
  ∀ s t : State, StateInv s → step s = .next t → StateInv t

/-- From a state of the invariant the machine never stops: the engine raises no error and every accepted
command completes (R600, R104). -/
def Obligations.NeverStops : Prop :=
  ∀ s : State, StateInv s → ∃ t : State, step s = .next t

/-- MSTORE changes only in the engine's step of GEN_MATRIX and in a hardware reset (R204, R161). -/
def Obligations.OnlyGenMatrixWrites : Prop :=
  ∀ s t : State, step s = .next t → t.mstore ≠ s.mstore →
    (s.pending = some (encode .genMatrix) ∧ engineTurn s = true) ∨
    ∃ rest, s.script = .hardReset :: rest

/-- MREADY is set only by the completion of GEN_MATRIX, which is the engine's step on it (or a reset that preloads) and cleared only by a hardware
reset with MATRIX_AT_RESET = EMPTY (R117, R703). -/
def Obligations.MreadyChanges : Prop :=
  ∀ s t : State, step s = .next t →
    (s.mready = false → t.mready = true →
      (s.pending = some (encode .genMatrix) ∧ engineTurn s = true) ∨
      (Config.matrixAtReset = .preloaded ∧ ∃ rest, s.script = .hardReset :: rest)) ∧
    (s.mready = true → t.mready = false →
      Config.matrixAtReset = .empty ∧ ∃ rest, s.script = .hardReset :: rest)

/-- PHASE changes only by the completion, the engine's step, of INIT (to ABSORB) or FINAL (to DONE), or by a hardware or soft reset
(to IDLE) (R118). -/
def Obligations.PhaseTransitions : Prop :=
  ∀ s t : State, step s = .next t → t.phase ≠ s.phase →
    (t.phase = .absorb ∧ s.pending = some (encode .init) ∧ engineTurn s = true) ∨
    (t.phase = .done ∧ engineTurn s = true ∧ ∃ r, s.pending = some (encode (.final r))) ∨
    (t.phase = .idle ∧
      ((∃ rest, s.script = .hardReset :: rest) ∨
       ∃ x rest, x.getLsbD 0 = true ∧ s.script = .write 0x008 64 x :: rest))
end

