-- ==== Sys2Proof/Laws/Access.lean ====
section
/-! SUPPORT. The register map both ways, and what one host statement and one write can do. -/

namespace Sys2Proof.Machine

/-- Every register is in the map. -/
theorem mem_allRegs (r : Reg) : r ∈ allRegs := by
  cases r <;> simp [allRegs]

/-- No two registers have one offset (R105). -/
theorem regOffset_injective {r r' : Reg} (h : regOffset r = regOffset r') : r = r' := by
  cases r <;> cases r' <;> simp only [regOffset] at h <;>
    first
      | rfl
      | omega
      | exact congrArg _ (Fin.ext (by omega))

/-- The register at a register's own offset is that register. -/
@[simp] theorem regAt_regOffset (r : Reg) : regAt (regOffset r) = some r := by
  unfold regAt
  cases h : allRegs.find? fun r' => regOffset r' == regOffset r with
  | none => simpa using List.find?_eq_none.1 h r (mem_allRegs r)
  | some r' =>
    have := List.find?_some h
    rw [regOffset_injective (beq_iff_eq.1 this)]

/-- A register found at an offset has that offset. -/
theorem regOffset_of_regAt {off : Nat} {r : Reg} (h : regAt off = some r) : regOffset r = off :=
  beq_iff_eq.1 (List.find?_some (p := fun r => regOffset r == off) h)

/-- Everything IssueCmd can do (R603): a raise, a discard, or an acceptance whose checks are all passed. -/
theorem issueCmd_cases (x : Word) (s : State) :
    (∃ c info, issueCmd x s = raiseError c info s) ∨
    (s.err = true ∧ issueCmd x s = { s with errovf := true }) ∨
    (s.busy = false ∧ s.err = false ∧
      (∃ i, decode x = .command i ∧ issueCheck i s = none) ∧ issueCmd x s = accept x s) := by
  unfold issueCmd
  split
  · exact .inl ⟨_, _, rfl⟩
  · split
    · exact .inr (.inl ⟨‹_›, rfl⟩)
    · split
      · exact .inl ⟨_, _, rfl⟩
      · split
        · exact .inl ⟨_, _, rfl⟩
        · exact .inr (.inr ⟨by simpa using ‹¬ s.busy = true›, by simpa using ‹¬ s.err = true›,
            ⟨_, ‹_›, ‹_›⟩, rfl⟩)

/-- Everything a register write can do (R106, R108). -/
theorem writeReg_cases (r : Reg) (x : Word) (s : State) :
    (∃ c info, writeReg r x s = raiseError c info s) ∨
    ((s.busy = true → guardedWhileBusy r = false) ∧ writeReg r x s = performWrite r x s) := by
  unfold writeReg
  split
  · exact .inl ⟨_, _, rfl⟩
  · rename_i h
    refine .inr ⟨fun hb => ?_, rfl⟩
    simpa [hb] using h

/-- Everything the host's move can do: nothing, or one statement (R220). -/
theorem hostStep_cases (s : State) :
    (s.script = [] ∧ hostStep s = s) ∨
    ∃ stmt rest, s.script = stmt :: rest ∧ hostStep s = runStmt stmt rest s := by
  unfold hostStep
  split
  · exact .inl ⟨‹_›, rfl⟩
  · exact .inr ⟨_, _, ‹_›, rfl⟩

end Sys2Proof.Machine
end

