-- ==== Sys2Proof/Laws/Aes.lean ====
section
/-! SUPPORT. The tables of R425 and R426 agree with the definitions that R424 and R426 give for them. -/

namespace Sys2Proof.Machine

/-- a^-1 with 0^-1 = 0: a^254, as a^2 · a^4 · … · a^128 (R424). -/
def gfInv (a : Byte) : Byte :=
  let sq (x : Byte) : Byte := gfMul x x
  let a2 := sq a
  let a4 := sq a2
  let a8 := sq a4
  let a16 := sq a8
  let a32 := sq a16
  let a64 := sq a32
  let a128 := sq a64
  gfMul a128 (gfMul a64 (gfMul a32 (gfMul a16 (gfMul a8 (gfMul a4 a2)))))

/-- The word w[i] of the key expansion from the words before it, newest first (R426). -/
def expandNext (i : Nat) (ws : List (Vector Byte 4)) : Vector Byte 4 :=
  let prev := ws.getD 0 (Vector.replicate 4 0)
  let old := ws.getD 3 (Vector.replicate 4 0)
  let rcon : Byte := [0x01, 0x02, 0x04, 0x08, 0x10, 0x20, 0x40, 0x80, 0x1b, 0x36].getD (i / 4 - 1) 0
  let t := if i % 4 = 0 then
    #v[sbox prev[1] ^^^ rcon, sbox prev[2], sbox prev[3], sbox prev[0]] else prev
  Vector.ofFn fun k => old[k] ^^^ t[k]

/-- w[0] to w[43] for the all-zero key (R426). -/
def expandedKey : List (Vector Byte 4) :=
  ((List.range' 4 40).foldl (fun ws i => expandNext i ws :: ws)
    (List.replicate 4 (Vector.replicate 4 0))).reverse

/-- The round keys of R426 are the key expansion of the all-zero key. -/
theorem roundKeys_eq_expansion :
    ∀ k < 11, ∀ i < 16, roundKeyByte k i = (expandedKey.getD (4 * k + i / 4) (Vector.replicate 4 0)).toList.getD (i % 4) 0 := by
  decide +kernel

/-- `gfInv` is the inverse (R424). -/
theorem gfMul_gfInv :
    ∀ a < 256, a ≠ 0 → gfMul (BitVec.ofNat 8 a) (gfInv (BitVec.ofNat 8 a)) = 1 := by
  decide +kernel

/-- The S-box table of R425 is the S-box of R424. -/
theorem sbox_eq_definition : ∀ a < 256, sbox (BitVec.ofNat 8 a) = sboxAffine (gfInv (BitVec.ofNat 8 a)) := by
  decide +kernel

end Sys2Proof.Machine
end

