-- ==== Sys2Proof/Laws/Bytes.lean ====
section
/-! SUPPORT. The bits of the byte-order primitives and of the byte-array registers. -/

namespace Sys2Proof.Machine

/-- Bit k of byte j of a little-endian word is bit 8j + k. -/
theorem getLsbD_leByte {n : Nat} (x : BitVec n) (j k : Nat) :
    (leByte x j).getLsbD k = (decide (k < 8) && x.getLsbD (8 * j + k)) := by
  simp [leByte, BitVec.getLsbD_extractLsb']

/-- Byte j of LE64 of eight bytes is byte j. -/
@[simp] theorem leByte_le64 (b : Fin 8 → Byte) (j : Fin 8) : leByte (le64 b) j.val = b j := by
  refine BitVec.eq_of_getLsbD_eq fun k hk => ?_
  obtain ⟨j, hj⟩ := j
  rw [getLsbD_leByte]
  interval_cases j <;> simp (disch := omega) only [le64, hk, BitVec.getLsbD_append, if_pos, if_neg,
    decide_true, Bool.true_and] <;> congr 1 <;> omega

/-- Bit k of LE64 is bit k mod 8 of byte k / 8. -/
theorem getLsbD_le64 (b : Fin 8 → Byte) (k : Nat) (hk : k < 64) :
    (le64 b).getLsbD k = (b ⟨k / 8, by omega⟩).getLsbD (k % 8) := by
  have h := congrArg (fun y => y.getLsbD (k % 8)) (leByte_le64 b ⟨k / 8, by omega⟩)
  simp only [getLsbD_leByte] at h
  rw [show 8 * (k / 8) + k % 8 = k by omega] at h
  simpa [show k % 8 < 8 by omega] using h

/-- LE64 of the bytes of a word is the word. -/
@[simp] theorem le64_leByte (x : Word) : le64 (fun j => leByte x j.val) = x := by
  refine BitVec.eq_of_getLsbD_eq fun k hk => ?_
  rw [getLsbD_le64 _ _ hk, getLsbD_leByte, show 8 * (k / 8) + k % 8 = k by omega]
  simp [show k % 8 < 8 by omega]

@[simp] theorem getElem_setArrayWord {m : Nat} (a : Vector Byte (8 * m)) (k : Fin m) (x : Word)
    (i : Nat) (hi : i < 8 * m) :
    (setArrayWord a k x)[i] = if i / 8 = k.val then leByte x (i % 8) else a[i] := by
  simp [setArrayWord]

/-- A register written is read back (R109). -/
@[simp] theorem arrayWord_setArrayWord {m : Nat} (a : Vector Byte (8 * m)) (k : Fin m) (x : Word) :
    arrayWord (setArrayWord a k x) k = x := by
  have h : ∀ i : Fin 8, (8 * k.val + i.val) / 8 = k.val ∧ (8 * k.val + i.val) % 8 = i.val := by
    intro i; omega
  simp [arrayWord, h]

/-- A write of one register keeps the others of its group (R109). -/
theorem arrayWord_setArrayWord_ne {m : Nat} (a : Vector Byte (8 * m)) {j k : Fin m} (h : j ≠ k)
    (x : Word) : arrayWord (setArrayWord a k x) j = arrayWord a j := by
  have hn : ∀ i : Fin 8, (8 * j.val + i.val) / 8 ≠ k.val := by
    intro i hi
    exact h (Fin.ext (by omega))
  simp [arrayWord, hn]

@[simp] theorem length_le64Bytes (x : Word) : (le64Bytes x).length = 8 := by simp [le64Bytes]

theorem getElem?_le64Bytes (x : Word) (k : Nat) (hk : k < 8) :
    (le64Bytes x)[k]? = some (leByte x k) := by
  simp [le64Bytes, hk]

end Sys2Proof.Machine
end

