-- ==== Sys2Proof/Laws/Column.lean ====
section
/-! SUPPORT. The limbs that the column functions give, limb by limb. -/

namespace Sys2Proof.Machine

/-- Limb k of load(pos) (R500). -/
theorem getElem_load (rd : MOffset → Byte) (pos : Byte) (k : Nat) (hk : k < 10) :
    (load rd pos)[k] =
      le64 fun i => rd ⟨64 * pos.toNat + 8 * k + i.val, by have := pos.isLt; omega⟩ := by
  simp [load]

/-- Limb i of mulX128(a) (R501). -/
theorem getElem_mulX128 (a : Column) (i : Nat) (hi : i < 10) :
    (mulX128 a)[i] = if i < 2 then 0 else a[i - 2] := by
  simp [mulX128]

/-- Limb i of add(a, w) (R502). -/
theorem getElem_add (a w : Column) (i : Nat) (hi : i < 10) :
    (add a w)[i] = if i < 9 then a[i] ^^^ w[i] else a[i] := by
  simp [add]

/-- reduce is the statement list of R504, performed in its order. -/
theorem Laws.reduce_eq_statements (a : Column) :
    reduce a =
      let a := a.set 0 (a[0] ^^^ (a[7] >>> 61))
      let a := a.set 0 (a[0] ^^^ (a[8] <<< 3))
      let a := a.set 1 (a[1] ^^^ (a[8] >>> 61))
      let a := a.set 1 (a[1] ^^^ (a[9] <<< 3))
      let a := a.set 2 (a[2] ^^^ (a[9] >>> 61))
      let a := a.set 7 (a[7] &&& 0x1FFFFFFFFFFFFFFF)
      let a := a.set 8 0
      a.set 9 0 := by
  refine Vector.ext fun i hi => ?_
  interval_cases i <;> simp [reduce]

/-- The written back hash state, byte by byte (R521). -/
theorem getElem_writeBack (hs : HashState) (v : Column) (i : Nat) (hi : i < 128) :
    (writeBack hs v)[i] = if h : i < 64 then leByte v[i / 8] (i % 8) else hs[i] := by
  simp [writeBack]

/-- The position buffer, byte by byte (R520). -/
theorem getElem_positionBuffer (hs : HashState) (chunk : Chunk) (i : Nat) (hi : i < 112) :
    (positionBuffer hs chunk)[i] = if h : i < 64 then hs[i] else chunk[i - 64] := by
  simp [positionBuffer]

/-- A pass writes no byte of the upper half of HS (R521, R526). -/
theorem mix_hs_upper (rd : MOffset → Byte) (hs : HashState) (chunk : Chunk) (i : Nat)
    (hi : i < 128) (h : 64 ≤ i) : (mix rd hs chunk).hs[i] = hs[i] := by
  simp [mix, getElem_writeBack, show ¬ i < 64 by omega]

end Sys2Proof.Machine
end

