-- ==== Sys2Proof/Laws/Decode.lean ====
section
/-! SUPPORT. The fields of a command word, out of it and into it (30_encoding.md R301). -/

namespace Sys2Proof

open Machine

theorem opcOf_wordOfFields (rsv : BitVec 32) (imm16 : Half) (imm8 opc : Byte) :
    opcOf (wordOfFields rsv imm16 imm8 opc) = opc := by
  refine BitVec.eq_of_getLsbD_eq fun k hk => ?_
  simp (disch := omega) only [opcOf, wordOfFields, BitVec.getLsbD_extractLsb', BitVec.getLsbD_append,
    hk, decide_true, Bool.true_and, if_pos]
  congr 1
  omega

theorem imm8Of_wordOfFields (rsv : BitVec 32) (imm16 : Half) (imm8 opc : Byte) :
    imm8Of (wordOfFields rsv imm16 imm8 opc) = imm8 := by
  refine BitVec.eq_of_getLsbD_eq fun k hk => ?_
  simp (disch := omega) only [imm8Of, wordOfFields, BitVec.getLsbD_extractLsb', BitVec.getLsbD_append,
    hk, decide_true, Bool.true_and, if_pos, if_neg]
  congr 1
  omega

theorem imm16Of_wordOfFields (rsv : BitVec 32) (imm16 : Half) (imm8 opc : Byte) :
    imm16Of (wordOfFields rsv imm16 imm8 opc) = imm16 := by
  refine BitVec.eq_of_getLsbD_eq fun k hk => ?_
  simp (disch := omega) only [imm16Of, wordOfFields, BitVec.getLsbD_extractLsb', BitVec.getLsbD_append,
    hk, decide_true, Bool.true_and, if_pos, if_neg]
  congr 1
  omega

theorem rsvOf_wordOfFields (rsv : BitVec 32) (imm16 : Half) (imm8 opc : Byte) :
    rsvOf (wordOfFields rsv imm16 imm8 opc) = rsv := by
  refine BitVec.eq_of_getLsbD_eq fun k hk => ?_
  simp (disch := omega) only [rsvOf, wordOfFields, BitVec.getLsbD_extractLsb', BitVec.getLsbD_append,
    hk, decide_true, Bool.true_and, if_neg]
  congr 1
  omega

/-- A word is its four fields. -/
theorem wordOfFields_of (x : Word) : wordOfFields (rsvOf x) (imm16Of x) (imm8Of x) (opcOf x) = x := by
  refine BitVec.eq_of_getLsbD_eq fun k hk => ?_
  simp only [opcOf, imm8Of, imm16Of, rsvOf, wordOfFields, BitVec.getLsbD_extractLsb',
    BitVec.getLsbD_append]
  by_cases h1 : k < 8
  · simp [h1]
  · by_cases h2 : k < 16
    · simp [h1, show k - 8 < 8 by omega, show 8 + (k - 8) = k by omega]
    · by_cases h3 : k < 32
      · simp [h1, show ¬ k - 8 < 8 by omega, show k - 8 - 8 < 16 by omega,
          show 16 + (k - 8 - 8) = k by omega]
      · simp [h1, show ¬ k - 8 < 8 by omega, show ¬ k - 8 - 8 < 16 by omega,
          show k - 8 - 8 - 16 < 32 by omega, show 32 + (k - 8 - 8 - 16) = k by omega]

/-- Bits 63 to 16 are zero exactly when RSV and IMM16 are. -/
theorem high48_eq_zero (x : Word) : x.extractLsb' 16 48 = 0#48 ↔ rsvOf x = 0#32 ∧ imm16Of x = 0#16 := by
  constructor
  · intro h
    have hb : ∀ k, k < 48 → x.getLsbD (16 + k) = false := fun k hk => by
      simpa [BitVec.getLsbD_extractLsb', hk] using congrArg (fun y => y.getLsbD k) h
    constructor <;> refine BitVec.eq_of_getLsbD_eq fun k hk => ?_
    · simpa [rsvOf, BitVec.getLsbD_extractLsb', hk, show 16 + (16 + k) = 32 + k by omega] using
        hb (16 + k) (by omega)
    · simpa [imm16Of, BitVec.getLsbD_extractLsb', hk] using hb k (by omega)
  · rintro ⟨h1, h2⟩
    refine BitVec.eq_of_getLsbD_eq fun k hk => ?_
    by_cases h : k < 16
    · simpa [imm16Of, BitVec.getLsbD_extractLsb', hk, h] using congrArg (fun y => y.getLsbD k) h2
    · simpa [rsvOf, BitVec.getLsbD_extractLsb', hk, show k - 16 < 32 by omega,
        show 32 + (k - 16) = 16 + k by omega] using congrArg (fun y => y.getLsbD (k - 16)) h1

/-- Bits 63 to 8 are zero exactly when RSV, IMM16 and IMM8 are. -/
theorem high56_eq_zero (x : Word) :
    x.extractLsb' 8 56 = 0#56 ↔ rsvOf x = 0#32 ∧ imm16Of x = 0#16 ∧ imm8Of x = 0#8 := by
  rw [← and_assoc, ← high48_eq_zero]
  constructor
  · intro h
    have hb : ∀ k, k < 56 → x.getLsbD (8 + k) = false := fun k hk => by
      simpa [BitVec.getLsbD_extractLsb', hk] using congrArg (fun y => y.getLsbD k) h
    constructor <;> refine BitVec.eq_of_getLsbD_eq fun k hk => ?_
    · simpa [BitVec.getLsbD_extractLsb', hk, show 8 + (8 + k) = 16 + k by omega] using
        hb (8 + k) (by omega)
    · simpa [imm8Of, BitVec.getLsbD_extractLsb', hk] using hb k (by omega)
  · rintro ⟨h1, h2⟩
    refine BitVec.eq_of_getLsbD_eq fun k hk => ?_
    by_cases h : k < 8
    · simpa [imm8Of, BitVec.getLsbD_extractLsb', hk, h] using congrArg (fun y => y.getLsbD k) h2
    · simpa [BitVec.getLsbD_extractLsb', hk, show k - 8 < 48 by omega,
        show 16 + (k - 8) = 8 + k by omega] using congrArg (fun y => y.getLsbD (k - 8)) h1

end Sys2Proof
end

