-- ==== Sys2Proof/Laws/Memory.lean ====
section
/-! SUPPORT. What each operation on MSTORE does: reads after writes, and the canonical form is kept. -/

namespace Sys2Proof.Machine

@[simp] theorem Mem.byte?_nil (a : Nat) : Mem.byte? [] a = none := rfl

theorem Mem.byte?_cons (b : Nat) (x : Byte) (m : Mem) (a : Nat) :
    Mem.byte? ((b, x) :: m) a = if b = a then some x else m.byte? a := rfl

/-- An offset that no cell lists reads as no value. -/
theorem Mem.byte?_eq_none {m : Mem} {a : Nat} (h : ∀ cell ∈ m, cell.1 ≠ a) : m.byte? a = none := by
  induction m with
  | nil => rfl
  | cons cell m ih =>
    rw [Mem.byte?, if_neg (h cell (by simp))]
    exact ih fun d hd => h d (by simp [hd])

theorem Mem.byte?_append (m n : Mem) (a : Nat) :
    Mem.byte? (m ++ n) a = (m.byte? a).or (n.byte? a) := by
  induction m with
  | nil => simp
  | cons cell m ih =>
    simp only [List.cons_append, Mem.byte?]
    split
    · rfl
    · exact ih

/-- Dropping cells does not change what a kept offset reads as. -/
theorem Mem.byte?_filter (m : Mem) (keep : Nat → Bool) (a : Nat) :
    Mem.byte? (m.filter fun cell => keep cell.1) a = if keep a then m.byte? a else none := by
  induction m with
  | nil => simp
  | cons cell m ih =>
    obtain ⟨b, x⟩ := cell
    by_cases hb : b = a
    · subst hb
      cases hk : keep b <;> simp [hk, Mem.byte?_cons, ih]
    · cases hk : keep b <;> simp [hk, Mem.byte?_cons, hb, ih]

theorem Mem.byte?_cells (bytes : List Byte) (b a : Nat) :
    Mem.byte? (Mem.cells b bytes) a = if b ≤ a then bytes[a - b]? else none := by
  induction bytes generalizing b with
  | nil => simp [Mem.cells]
  | cons x rest ih =>
    rw [Mem.cells, Mem.byte?_cons, ih]
    by_cases h : b = a
    · subst h; simp
    · by_cases hle : b ≤ a
      · obtain ⟨d, rfl⟩ := Nat.exists_eq_add_of_lt (Nat.lt_of_le_of_ne hle h)
        have h1 : b + d + 1 - b = d + 1 := by omega
        have h2 : b + d + 1 - (b + 1) = d := by omega
        rw [if_neg h, if_pos hle, if_pos (by omega), h1, h2, List.getElem?_cons_succ]
      · simp [h, hle, show ¬ b + 1 ≤ a by omega]

/-- A block write: the written offsets read the written bytes, every other offset reads as before (R202). -/
theorem Mem.byte?_write (m : Mem) (b : Nat) (bytes : List Byte) (a : Nat) :
    (m.write b bytes).byte? a =
      if b ≤ a ∧ a < b + bytes.length then bytes[a - b]? else m.byte? a := by
  rw [Mem.write, Mem.byte?_append, Mem.byte?_append, Mem.byte?_cells,
    Mem.byte?_filter m (fun x => decide (x < b)) a,
    Mem.byte?_filter m (fun x => decide (b + bytes.length ≤ x)) a]
  by_cases h1 : a < b
  · simp [h1, show ¬ b ≤ a by omega, show ¬ b + bytes.length ≤ a by omega]
  · by_cases h2 : a < b + bytes.length
    · have h3 : a - b < bytes.length := by omega
      simp [h1, h2, show b ≤ a by omega, show ¬ b + bytes.length ≤ a by omega, h3]
    · have h3 : bytes.length ≤ a - b := by omega
      simp [h1, h2, show b ≤ a by omega, show b + bytes.length ≤ a by omega, h3]

theorem Mem.cells_bounds {bytes : List Byte} {b : Nat} {cell : Host.Cell}
    (h : cell ∈ Mem.cells b bytes) : b ≤ cell.1 ∧ cell.1 < b + bytes.length := by
  induction bytes generalizing b with
  | nil => simp [Mem.cells] at h
  | cons x rest ih =>
    rcases List.mem_cons.1 h with rfl | h
    · simp
    · have := ih h
      simp only [List.length_cons]
      omega

theorem Mem.cells_pairwise (bytes : List Byte) (b : Nat) :
    (Mem.cells b bytes).Pairwise fun x y => x.1 < y.1 := by
  induction bytes generalizing b with
  | nil => exact .nil
  | cons x rest ih =>
    refine List.Pairwise.cons (fun cell hcell => ?_) (ih (b + 1))
    have := (Mem.cells_bounds hcell).1
    show b < cell.1
    omega

/-- A block write inside the table keeps the canonical form. -/
theorem Mem.wf_write {m : Mem} (hm : m.wf) {b : Nat} {bytes : List Byte}
    (hb : b + bytes.length ≤ 16384) : (m.write b bytes).wf := by
  obtain ⟨hp, hlt⟩ := hm
  constructor
  · refine List.pairwise_append.2 ⟨List.pairwise_append.2
      ⟨hp.filter _, Mem.cells_pairwise bytes b, ?_⟩, hp.filter _, ?_⟩
    · intro x hx y hy
      have h1 := (List.mem_filter.1 hx).2
      have h2 := (Mem.cells_bounds hy).1
      simp at h1
      omega
    · intro x hx y hy
      have h2 := (List.mem_filter.1 hy).2
      simp at h2
      rcases List.mem_append.1 hx with hx | hx
      · have h1 := (List.mem_filter.1 hx).2
        simp at h1
        omega
      · have h1 := (Mem.cells_bounds hx).2
        omega
  · intro x hx
    rcases List.mem_append.1 hx with hx | hx
    · rcases List.mem_append.1 hx with hx | hx
      · exact hlt x (List.mem_filter.1 hx).1
      · have h1 := (Mem.cells_bounds hx).2
        omega
    · exact hlt x (List.mem_filter.1 hx).1

theorem Mem.wf_nil : Mem.wf [] := ⟨.nil, by simp⟩

/-- The rows 0 to n-1 of G, written in turn. -/
theorem Mem.writeRows_spec (m : Mem) (n : Nat) (hn : n ≤ 256) :
    let t := (List.range n).foldl (fun m j => m.write (64 * j) (matrixRow j).toList) m
    (m.wf → t.wf) ∧ ∀ a, t.byte? a = if a < 64 * n then some (tableByte a) else m.byte? a := by
  induction n with
  | zero => simp
  | succ n ih =>
    obtain ⟨hwf, hbyte⟩ := ih (by omega)
    rw [List.range_succ, List.foldl_append]
    refine ⟨fun hm => Mem.wf_write (hwf hm) (by simp; omega), fun a => ?_⟩
    simp only [List.foldl_cons, List.foldl_nil]
    rw [Mem.byte?_write, hbyte]
    simp only [Vector.length_toList]
    by_cases h : 64 * n ≤ a ∧ a < 64 * n + 64
    · have hd : a / 64 = n := by omega
      have hm : a % 64 = a - 64 * n := by omega
      rw [if_pos h, if_pos (by omega), tableByte]
      simp only [hd, hm]
      rw [List.getElem?_eq_getElem (by simp; omega)]
      simp
    · rw [if_neg h]
      by_cases h2 : a < 64 * n
      · rw [if_pos h2, if_pos (by omega)]
      · rw [if_neg h2, if_neg (by omega)]

/-- After GEN_MATRIX every offset of the table reads the byte of G, and no other offset changes (R463). -/
theorem Mem.byte?_writeTable (m : Mem) (a : Nat) :
    m.writeTable.byte? a = if a < 16384 then some (tableByte a) else m.byte? a :=
  (Mem.writeRows_spec m 256 (by omega)).2 a

/-- GEN_MATRIX keeps the canonical form. -/
theorem Mem.wf_writeTable {m : Mem} (hm : m.wf) : m.writeTable.wf :=
  (Mem.writeRows_spec m 256 (by omega)).1 hm

/-- Equal reads are equal data, in the canonical form. -/
theorem Mem.ext_of_wf {m n : Mem} (hm : m.wf) (hn : n.wf) (h : ∀ a, m.byte? a = n.byte? a) : m = n := by
  induction m generalizing n with
  | nil =>
    cases n with
    | nil => rfl
    | cons cell n => simpa [Mem.byte?, Mem.unlisted] using h cell.1
  | cons cell m ih =>
    obtain ⟨b, x⟩ := cell
    cases n with
    | nil => simpa [Mem.byte?, Mem.unlisted] using h b
    | cons cell' n =>
      obtain ⟨b', x'⟩ := cell'
      have hm1 := List.pairwise_cons.1 hm.1
      have hn1 := List.pairwise_cons.1 hn.1
      have below : ∀ {a : Nat} {l : Mem}, (∀ cell ∈ l, a < cell.1) → l.byte? a = none :=
        fun hl => Mem.byte?_eq_none fun cell hc => Nat.ne_of_gt (hl cell hc)
      have hbb : b = b' := by
        rcases Nat.lt_trichotomy b b' with hlt | heq | hgt
        · have := h b
          rw [Mem.byte?_cons, Mem.byte?_cons, if_pos rfl, if_neg (by omega),
            below fun cell hc => Nat.lt_trans hlt (hn1.1 cell hc)] at this
          exact absurd this (by simp)
        · exact heq
        · have := h b'
          rw [Mem.byte?_cons, Mem.byte?_cons, if_neg (by omega), if_pos rfl,
            below fun cell hc => Nat.lt_trans hgt (hm1.1 cell hc)] at this
          exact absurd this (by simp)
      subst hbb
      have hx : x = x' := by simpa [Mem.byte?] using h b
      subst hx
      congr 1
      refine ih ⟨hm1.2, fun d hd => hm.2 d (by simp [hd])⟩ ⟨hn1.2, fun d hd => hn.2 d (by simp [hd])⟩
        fun a => ?_
      by_cases ha : b = a
      · subst ha
        rw [below fun cell hc => hm1.1 cell hc, below fun cell hc => hn1.1 cell hc]
      · simpa [Mem.byte?_cons, ha] using h a

end Sys2Proof.Machine
end

