-- ==== Sys2Proof/Laws/PerInstr.lean ====
section
/-! SUPPORT. The family Enc, one lemma per constructor: the word of a command matches its own row of the opcode
table under that row's mask (30_encoding.md R302, R304). -/

namespace Sys2Proof.Laws.Enc

open Machine

/-- The command's word matches the opcode table's row of its mnemonic. -/
def Statement (i : Instr) : Prop :=
  ∃ row ∈ opcodeTable, row.1 = i.mnemonic ∧ encode i &&& row.2.2 = row.2.1

theorem encodeB_masked (opc imm8 : Byte) : encodeB opc imm8 &&& maskB = encodeN opc := by
  refine BitVec.eq_of_getLsbD_eq fun k hk => ?_
  simp only [encodeB, encodeN, wordOfFields, maskB, BitVec.getLsbD_and, BitVec.getLsbD_append]
  interval_cases k <;> simp

theorem encodeH_masked (opc : Byte) (imm16 : Half) : encodeH opc imm16 &&& maskH = encodeN opc := by
  refine BitVec.eq_of_getLsbD_eq fun k hk => ?_
  simp only [encodeH, encodeN, wordOfFields, maskH, BitVec.getLsbD_and, BitVec.getLsbD_append]
  interval_cases k <;> simp

theorem nop : Statement .nop := ⟨("NOP", 0x00, maskN), by simp [opcodeTable], rfl, by decide⟩
theorem init : Statement .init := ⟨("INIT", 0x01, maskN), by simp [opcodeTable], rfl, by decide⟩
theorem absorb : Statement .absorb := ⟨("ABSORB", 0x02, maskN), by simp [opcodeTable], rfl, by decide⟩
theorem final (r : Byte) : Statement (.final r) :=
  ⟨("FINAL", 0x03, maskB), by simp [opcodeTable], rfl, (encodeB_masked _ _).trans (by decide)⟩
theorem genMatrix : Statement .genMatrix :=
  ⟨("GEN_MATRIX", 0x10, maskN), by simp [opcodeTable], rfl, by decide⟩
theorem mread (idx : Half) : Statement (.mread idx) :=
  ⟨("MREAD", 0x11, maskH), by simp [opcodeTable], rfl, (encodeH_masked _ _).trans (by decide)⟩
theorem aesEnc : Statement .aesEnc := ⟨("AES_ENC", 0x20, maskN), by simp [opcodeTable], rfl, by decide⟩
theorem colLoadV (pos : Byte) : Statement (.colLoadV pos) :=
  ⟨("COL_LOAD_V", 0x30, maskB), by simp [opcodeTable], rfl, (encodeB_masked _ _).trans (by decide)⟩
theorem colLoadW (pos : Byte) : Statement (.colLoadW pos) :=
  ⟨("COL_LOAD_W", 0x31, maskB), by simp [opcodeTable], rfl, (encodeB_masked _ _).trans (by decide)⟩
theorem colMulx : Statement .colMulx :=
  ⟨("COL_MULX", 0x32, maskN), by simp [opcodeTable], rfl, by decide⟩
theorem colAdd : Statement .colAdd := ⟨("COL_ADD", 0x33, maskN), by simp [opcodeTable], rfl, by decide⟩
theorem colReduce : Statement .colReduce :=
  ⟨("COL_REDUCE", 0x34, maskN), by simp [opcodeTable], rfl, by decide⟩
theorem colStep (pos : Byte) : Statement (.colStep pos) :=
  ⟨("COL_STEP", 0x35, maskB), by simp [opcodeTable], rfl, (encodeB_masked _ _).trans (by decide)⟩

end Sys2Proof.Laws.Enc
end

