-- ==== Sys2Proof/Laws/State.lean ====
section
/-! SUPPORT. One lemma per field of State per shared update, so that no proof unfolds a record update. -/

namespace Sys2Proof.Machine

/-! ### complete (R104) -/

@[simp] theorem complete_ieDone (s : State) : (complete s).ieDone = s.ieDone := rfl
@[simp] theorem complete_ieErr (s : State) : (complete s).ieErr = s.ieErr := rfl
@[simp] theorem complete_busy (s : State) : (complete s).busy = false := rfl
@[simp] theorem complete_mready (s : State) : (complete s).mready = s.mready := rfl
@[simp] theorem complete_phase (s : State) : (complete s).phase = s.phase := rfl
@[simp] theorem complete_cdone (s : State) : (complete s).cdone = true := rfl
@[simp] theorem complete_err (s : State) : (complete s).err = s.err := rfl
@[simp] theorem complete_errovf (s : State) : (complete s).errovf = s.errovf := rfl
@[simp] theorem complete_errcode (s : State) : (complete s).errcode = s.errcode := rfl
@[simp] theorem complete_errinfo (s : State) : (complete s).errinfo = s.errinfo := rfl
@[simp] theorem complete_len (s : State) : (complete s).len = s.len := rfl
@[simp] theorem complete_mdata (s : State) : (complete s).mdata = s.mdata := rfl
@[simp] theorem complete_chunk (s : State) : (complete s).chunk = s.chunk := rfl
@[simp] theorem complete_pt (s : State) : (complete s).pt = s.pt := rfl
@[simp] theorem complete_ct (s : State) : (complete s).ct = s.ct := rfl
@[simp] theorem complete_digest (s : State) : (complete s).digest = s.digest := rfl
@[simp] theorem complete_hs (s : State) : (complete s).hs = s.hs := rfl
@[simp] theorem complete_v (s : State) : (complete s).v = s.v := rfl
@[simp] theorem complete_w (s : State) : (complete s).w = s.w := rfl
@[simp] theorem complete_mstore (s : State) : (complete s).mstore = s.mstore := rfl
@[simp] theorem complete_pending (s : State) : (complete s).pending = none := rfl
@[simp] theorem complete_script (s : State) : (complete s).script = s.script := rfl
@[simp] theorem complete_reply (s : State) : (complete s).reply = s.reply := rfl
@[simp] theorem complete_delay (s : State) : (complete s).delay = s.delay := rfl
@[simp] theorem complete_issued (s : State) : (complete s).issued = s.issued := rfl
@[simp] theorem complete_draws (s : State) : (complete s).draws = s.draws := rfl
@[simp] theorem complete_epoch (s : State) : (complete s).epoch = s.epoch := rfl
@[simp] theorem complete_runFaulted (s : State) : (complete s).runFaulted = s.runFaulted := rfl

/-! ### accept (R603) -/

@[simp] theorem accept_ieDone (x : Word) (s : State) : (accept x s).ieDone = s.ieDone := rfl
@[simp] theorem accept_ieErr (x : Word) (s : State) : (accept x s).ieErr = s.ieErr := rfl
@[simp] theorem accept_busy (x : Word) (s : State) : (accept x s).busy = true := rfl
@[simp] theorem accept_mready (x : Word) (s : State) : (accept x s).mready = s.mready := rfl
@[simp] theorem accept_phase (x : Word) (s : State) : (accept x s).phase = s.phase := rfl
@[simp] theorem accept_cdone (x : Word) (s : State) : (accept x s).cdone = s.cdone := rfl
@[simp] theorem accept_err (x : Word) (s : State) : (accept x s).err = s.err := rfl
@[simp] theorem accept_errovf (x : Word) (s : State) : (accept x s).errovf = s.errovf := rfl
@[simp] theorem accept_errcode (x : Word) (s : State) : (accept x s).errcode = s.errcode := rfl
@[simp] theorem accept_errinfo (x : Word) (s : State) : (accept x s).errinfo = s.errinfo := rfl
@[simp] theorem accept_len (x : Word) (s : State) : (accept x s).len = s.len := rfl
@[simp] theorem accept_mdata (x : Word) (s : State) : (accept x s).mdata = s.mdata := rfl
@[simp] theorem accept_chunk (x : Word) (s : State) : (accept x s).chunk = s.chunk := rfl
@[simp] theorem accept_pt (x : Word) (s : State) : (accept x s).pt = s.pt := rfl
@[simp] theorem accept_ct (x : Word) (s : State) : (accept x s).ct = s.ct := rfl
@[simp] theorem accept_digest (x : Word) (s : State) : (accept x s).digest = s.digest := rfl
@[simp] theorem accept_hs (x : Word) (s : State) : (accept x s).hs = s.hs := rfl
@[simp] theorem accept_v (x : Word) (s : State) : (accept x s).v = s.v := rfl
@[simp] theorem accept_w (x : Word) (s : State) : (accept x s).w = s.w := rfl
@[simp] theorem accept_mstore (x : Word) (s : State) : (accept x s).mstore = s.mstore := rfl
@[simp] theorem accept_pending (x : Word) (s : State) : (accept x s).pending = some x := rfl
@[simp] theorem accept_script (x : Word) (s : State) : (accept x s).script = s.script := rfl
@[simp] theorem accept_reply (x : Word) (s : State) : (accept x s).reply = s.reply := rfl
@[simp] theorem accept_delay (x : Word) (s : State) : (accept x s).delay = Config.latency s.issued := rfl
@[simp] theorem accept_issued (x : Word) (s : State) : (accept x s).issued = s.issued + 1 := rfl
@[simp] theorem accept_draws (x : Word) (s : State) : (accept x s).draws = s.draws := rfl
@[simp] theorem accept_epoch (x : Word) (s : State) : (accept x s).epoch = s.epoch := rfl
@[simp] theorem accept_runFaulted (x : Word) (s : State) : (accept x s).runFaulted = s.runFaulted := rfl

/-! ### clearDone (R119) -/

@[simp] theorem clearDone_ieDone (s : State) : (clearDone s).ieDone = s.ieDone := rfl
@[simp] theorem clearDone_ieErr (s : State) : (clearDone s).ieErr = s.ieErr := rfl
@[simp] theorem clearDone_busy (s : State) : (clearDone s).busy = s.busy := rfl
@[simp] theorem clearDone_mready (s : State) : (clearDone s).mready = s.mready := rfl
@[simp] theorem clearDone_phase (s : State) : (clearDone s).phase = s.phase := rfl
@[simp] theorem clearDone_cdone (s : State) : (clearDone s).cdone = false := rfl
@[simp] theorem clearDone_err (s : State) : (clearDone s).err = s.err := rfl
@[simp] theorem clearDone_errovf (s : State) : (clearDone s).errovf = s.errovf := rfl
@[simp] theorem clearDone_errcode (s : State) : (clearDone s).errcode = s.errcode := rfl
@[simp] theorem clearDone_errinfo (s : State) : (clearDone s).errinfo = s.errinfo := rfl
@[simp] theorem clearDone_len (s : State) : (clearDone s).len = s.len := rfl
@[simp] theorem clearDone_mdata (s : State) : (clearDone s).mdata = s.mdata := rfl
@[simp] theorem clearDone_chunk (s : State) : (clearDone s).chunk = s.chunk := rfl
@[simp] theorem clearDone_pt (s : State) : (clearDone s).pt = s.pt := rfl
@[simp] theorem clearDone_ct (s : State) : (clearDone s).ct = s.ct := rfl
@[simp] theorem clearDone_digest (s : State) : (clearDone s).digest = s.digest := rfl
@[simp] theorem clearDone_hs (s : State) : (clearDone s).hs = s.hs := rfl
@[simp] theorem clearDone_v (s : State) : (clearDone s).v = s.v := rfl
@[simp] theorem clearDone_w (s : State) : (clearDone s).w = s.w := rfl
@[simp] theorem clearDone_mstore (s : State) : (clearDone s).mstore = s.mstore := rfl
@[simp] theorem clearDone_pending (s : State) : (clearDone s).pending = s.pending := rfl
@[simp] theorem clearDone_script (s : State) : (clearDone s).script = s.script := rfl
@[simp] theorem clearDone_reply (s : State) : (clearDone s).reply = s.reply := rfl
@[simp] theorem clearDone_delay (s : State) : (clearDone s).delay = s.delay := rfl
@[simp] theorem clearDone_issued (s : State) : (clearDone s).issued = s.issued := rfl
@[simp] theorem clearDone_draws (s : State) : (clearDone s).draws = s.draws := rfl
@[simp] theorem clearDone_epoch (s : State) : (clearDone s).epoch = s.epoch := rfl
@[simp] theorem clearDone_runFaulted (s : State) : (clearDone s).runFaulted = s.runFaulted := rfl

/-! ### clearErr (R612) -/

@[simp] theorem clearErr_ieDone (s : State) : (clearErr s).ieDone = s.ieDone := rfl
@[simp] theorem clearErr_ieErr (s : State) : (clearErr s).ieErr = s.ieErr := rfl
@[simp] theorem clearErr_busy (s : State) : (clearErr s).busy = s.busy := rfl
@[simp] theorem clearErr_mready (s : State) : (clearErr s).mready = s.mready := rfl
@[simp] theorem clearErr_phase (s : State) : (clearErr s).phase = s.phase := rfl
@[simp] theorem clearErr_cdone (s : State) : (clearErr s).cdone = s.cdone := rfl
@[simp] theorem clearErr_err (s : State) : (clearErr s).err = false := rfl
@[simp] theorem clearErr_errovf (s : State) : (clearErr s).errovf = s.errovf := rfl
@[simp] theorem clearErr_errcode (s : State) : (clearErr s).errcode = 0 := rfl
@[simp] theorem clearErr_errinfo (s : State) : (clearErr s).errinfo = 0 := rfl
@[simp] theorem clearErr_len (s : State) : (clearErr s).len = s.len := rfl
@[simp] theorem clearErr_mdata (s : State) : (clearErr s).mdata = s.mdata := rfl
@[simp] theorem clearErr_chunk (s : State) : (clearErr s).chunk = s.chunk := rfl
@[simp] theorem clearErr_pt (s : State) : (clearErr s).pt = s.pt := rfl
@[simp] theorem clearErr_ct (s : State) : (clearErr s).ct = s.ct := rfl
@[simp] theorem clearErr_digest (s : State) : (clearErr s).digest = s.digest := rfl
@[simp] theorem clearErr_hs (s : State) : (clearErr s).hs = s.hs := rfl
@[simp] theorem clearErr_v (s : State) : (clearErr s).v = s.v := rfl
@[simp] theorem clearErr_w (s : State) : (clearErr s).w = s.w := rfl
@[simp] theorem clearErr_mstore (s : State) : (clearErr s).mstore = s.mstore := rfl
@[simp] theorem clearErr_pending (s : State) : (clearErr s).pending = s.pending := rfl
@[simp] theorem clearErr_script (s : State) : (clearErr s).script = s.script := rfl
@[simp] theorem clearErr_reply (s : State) : (clearErr s).reply = s.reply := rfl
@[simp] theorem clearErr_delay (s : State) : (clearErr s).delay = s.delay := rfl
@[simp] theorem clearErr_issued (s : State) : (clearErr s).issued = s.issued := rfl
@[simp] theorem clearErr_draws (s : State) : (clearErr s).draws = s.draws := rfl
@[simp] theorem clearErr_epoch (s : State) : (clearErr s).epoch = s.epoch := rfl
@[simp] theorem clearErr_runFaulted (s : State) : (clearErr s).runFaulted = s.runFaulted := rfl

/-! ### clearOvf (R612) -/

@[simp] theorem clearOvf_ieDone (s : State) : (clearOvf s).ieDone = s.ieDone := rfl
@[simp] theorem clearOvf_ieErr (s : State) : (clearOvf s).ieErr = s.ieErr := rfl
@[simp] theorem clearOvf_busy (s : State) : (clearOvf s).busy = s.busy := rfl
@[simp] theorem clearOvf_mready (s : State) : (clearOvf s).mready = s.mready := rfl
@[simp] theorem clearOvf_phase (s : State) : (clearOvf s).phase = s.phase := rfl
@[simp] theorem clearOvf_cdone (s : State) : (clearOvf s).cdone = s.cdone := rfl
@[simp] theorem clearOvf_err (s : State) : (clearOvf s).err = s.err := rfl
@[simp] theorem clearOvf_errovf (s : State) : (clearOvf s).errovf = false := rfl
@[simp] theorem clearOvf_errcode (s : State) : (clearOvf s).errcode = s.errcode := rfl
@[simp] theorem clearOvf_errinfo (s : State) : (clearOvf s).errinfo = s.errinfo := rfl
@[simp] theorem clearOvf_len (s : State) : (clearOvf s).len = s.len := rfl
@[simp] theorem clearOvf_mdata (s : State) : (clearOvf s).mdata = s.mdata := rfl
@[simp] theorem clearOvf_chunk (s : State) : (clearOvf s).chunk = s.chunk := rfl
@[simp] theorem clearOvf_pt (s : State) : (clearOvf s).pt = s.pt := rfl
@[simp] theorem clearOvf_ct (s : State) : (clearOvf s).ct = s.ct := rfl
@[simp] theorem clearOvf_digest (s : State) : (clearOvf s).digest = s.digest := rfl
@[simp] theorem clearOvf_hs (s : State) : (clearOvf s).hs = s.hs := rfl
@[simp] theorem clearOvf_v (s : State) : (clearOvf s).v = s.v := rfl
@[simp] theorem clearOvf_w (s : State) : (clearOvf s).w = s.w := rfl
@[simp] theorem clearOvf_mstore (s : State) : (clearOvf s).mstore = s.mstore := rfl
@[simp] theorem clearOvf_pending (s : State) : (clearOvf s).pending = s.pending := rfl
@[simp] theorem clearOvf_script (s : State) : (clearOvf s).script = s.script := rfl
@[simp] theorem clearOvf_reply (s : State) : (clearOvf s).reply = s.reply := rfl
@[simp] theorem clearOvf_delay (s : State) : (clearOvf s).delay = s.delay := rfl
@[simp] theorem clearOvf_issued (s : State) : (clearOvf s).issued = s.issued := rfl
@[simp] theorem clearOvf_draws (s : State) : (clearOvf s).draws = s.draws := rfl
@[simp] theorem clearOvf_epoch (s : State) : (clearOvf s).epoch = s.epoch := rfl
@[simp] theorem clearOvf_runFaulted (s : State) : (clearOvf s).runFaulted = s.runFaulted := rfl

/-! ### softReset (R702) -/

@[simp] theorem softReset_ieDone (s : State) : (softReset s).ieDone = false := rfl
@[simp] theorem softReset_ieErr (s : State) : (softReset s).ieErr = false := rfl
@[simp] theorem softReset_busy (s : State) : (softReset s).busy = false := rfl
@[simp] theorem softReset_mready (s : State) : (softReset s).mready = s.mready := rfl
@[simp] theorem softReset_phase (s : State) : (softReset s).phase = .idle := rfl
@[simp] theorem softReset_cdone (s : State) : (softReset s).cdone = false := rfl
@[simp] theorem softReset_err (s : State) : (softReset s).err = false := rfl
@[simp] theorem softReset_errovf (s : State) : (softReset s).errovf = false := rfl
@[simp] theorem softReset_errcode (s : State) : (softReset s).errcode = 0 := rfl
@[simp] theorem softReset_errinfo (s : State) : (softReset s).errinfo = 0 := rfl
@[simp] theorem softReset_len (s : State) : (softReset s).len = 0 := rfl
@[simp] theorem softReset_mdata (s : State) : (softReset s).mdata = 0 := rfl
@[simp] theorem softReset_chunk (s : State) : (softReset s).chunk = Vector.replicate 48 0 := rfl
@[simp] theorem softReset_pt (s : State) : (softReset s).pt = Vector.replicate 16 0 := rfl
@[simp] theorem softReset_ct (s : State) : (softReset s).ct = Vector.replicate 16 0 := rfl
@[simp] theorem softReset_digest (s : State) : (softReset s).digest = Vector.replicate 32 0 := rfl
@[simp] theorem softReset_hs (s : State) : (softReset s).hs = HashState.zero := rfl
@[simp] theorem softReset_v (s : State) : (softReset s).v = Column.zero := rfl
@[simp] theorem softReset_w (s : State) : (softReset s).w = Column.zero := rfl
@[simp] theorem softReset_mstore (s : State) : (softReset s).mstore = s.mstore := rfl
@[simp] theorem softReset_pending (s : State) : (softReset s).pending = none := rfl
@[simp] theorem softReset_script (s : State) : (softReset s).script = s.script := rfl
@[simp] theorem softReset_reply (s : State) : (softReset s).reply = s.reply := rfl
@[simp] theorem softReset_delay (s : State) : (softReset s).delay = 0 := rfl
@[simp] theorem softReset_issued (s : State) : (softReset s).issued = s.issued := rfl
@[simp] theorem softReset_draws (s : State) : (softReset s).draws = s.draws := rfl
@[simp] theorem softReset_epoch (s : State) : (softReset s).epoch = s.epoch := rfl
@[simp] theorem softReset_runFaulted (s : State) : (softReset s).runFaulted = s.runFaulted := rfl

/-! ### hardReset (R700) -/

@[simp] theorem hardReset_ieDone (s : State) : (hardReset s).ieDone = false := rfl
@[simp] theorem hardReset_ieErr (s : State) : (hardReset s).ieErr = false := rfl
@[simp] theorem hardReset_busy (s : State) : (hardReset s).busy = false := rfl
@[simp] theorem hardReset_mready (s : State) : (hardReset s).mready = resetMready := rfl
@[simp] theorem hardReset_phase (s : State) : (hardReset s).phase = .idle := rfl
@[simp] theorem hardReset_cdone (s : State) : (hardReset s).cdone = false := rfl
@[simp] theorem hardReset_err (s : State) : (hardReset s).err = false := rfl
@[simp] theorem hardReset_errovf (s : State) : (hardReset s).errovf = false := rfl
@[simp] theorem hardReset_errcode (s : State) : (hardReset s).errcode = 0 := rfl
@[simp] theorem hardReset_errinfo (s : State) : (hardReset s).errinfo = 0 := rfl
@[simp] theorem hardReset_len (s : State) : (hardReset s).len = 0 := rfl
@[simp] theorem hardReset_mdata (s : State) : (hardReset s).mdata = 0 := rfl
@[simp] theorem hardReset_chunk (s : State) : (hardReset s).chunk = Vector.replicate 48 0 := rfl
@[simp] theorem hardReset_pt (s : State) : (hardReset s).pt = Vector.replicate 16 0 := rfl
@[simp] theorem hardReset_ct (s : State) : (hardReset s).ct = Vector.replicate 16 0 := rfl
@[simp] theorem hardReset_digest (s : State) : (hardReset s).digest = Vector.replicate 32 0 := rfl
@[simp] theorem hardReset_hs (s : State) : (hardReset s).hs = HashState.zero := rfl
@[simp] theorem hardReset_v (s : State) : (hardReset s).v = Column.zero := rfl
@[simp] theorem hardReset_w (s : State) : (hardReset s).w = Column.zero := rfl
@[simp] theorem hardReset_mstore (s : State) : (hardReset s).mstore = resetMstore := rfl
@[simp] theorem hardReset_pending (s : State) : (hardReset s).pending = none := rfl
@[simp] theorem hardReset_script (s : State) : (hardReset s).script = s.script := rfl
@[simp] theorem hardReset_reply (s : State) : (hardReset s).reply = s.reply := rfl
@[simp] theorem hardReset_delay (s : State) : (hardReset s).delay = 0 := rfl
@[simp] theorem hardReset_issued (s : State) : (hardReset s).issued = s.issued := rfl
@[simp] theorem hardReset_draws (s : State) : (hardReset s).draws = s.draws := rfl
@[simp] theorem hardReset_epoch (s : State) : (hardReset s).epoch = s.epoch + 1 := rfl
@[simp] theorem hardReset_runFaulted (s : State) : (hardReset s).runFaulted = s.runFaulted := rfl

/-! ### busError (R607) -/

@[simp] theorem busError_ieDone (s : State) : (busError s).ieDone = s.ieDone := rfl
@[simp] theorem busError_ieErr (s : State) : (busError s).ieErr = s.ieErr := rfl
@[simp] theorem busError_busy (s : State) : (busError s).busy = s.busy := rfl
@[simp] theorem busError_mready (s : State) : (busError s).mready = s.mready := rfl
@[simp] theorem busError_phase (s : State) : (busError s).phase = s.phase := rfl
@[simp] theorem busError_cdone (s : State) : (busError s).cdone = s.cdone := rfl
@[simp] theorem busError_err (s : State) : (busError s).err = s.err := rfl
@[simp] theorem busError_errovf (s : State) : (busError s).errovf = s.errovf := rfl
@[simp] theorem busError_errcode (s : State) : (busError s).errcode = s.errcode := rfl
@[simp] theorem busError_errinfo (s : State) : (busError s).errinfo = s.errinfo := rfl
@[simp] theorem busError_len (s : State) : (busError s).len = s.len := rfl
@[simp] theorem busError_mdata (s : State) : (busError s).mdata = s.mdata := rfl
@[simp] theorem busError_chunk (s : State) : (busError s).chunk = s.chunk := rfl
@[simp] theorem busError_pt (s : State) : (busError s).pt = s.pt := rfl
@[simp] theorem busError_ct (s : State) : (busError s).ct = s.ct := rfl
@[simp] theorem busError_digest (s : State) : (busError s).digest = s.digest := rfl
@[simp] theorem busError_hs (s : State) : (busError s).hs = s.hs := rfl
@[simp] theorem busError_v (s : State) : (busError s).v = s.v := rfl
@[simp] theorem busError_w (s : State) : (busError s).w = s.w := rfl
@[simp] theorem busError_mstore (s : State) : (busError s).mstore = s.mstore := rfl
@[simp] theorem busError_pending (s : State) : (busError s).pending = s.pending := rfl
@[simp] theorem busError_script (s : State) : (busError s).script = s.script := rfl
@[simp] theorem busError_reply (s : State) : (busError s).reply = .busError := rfl
@[simp] theorem busError_delay (s : State) : (busError s).delay = s.delay := rfl
@[simp] theorem busError_issued (s : State) : (busError s).issued = s.issued := rfl
@[simp] theorem busError_draws (s : State) : (busError s).draws = s.draws := rfl
@[simp] theorem busError_epoch (s : State) : (busError s).epoch = s.epoch := rfl
@[simp] theorem busError_runFaulted (s : State) : (busError s).runFaulted = true := rfl

/-! ### raiseError (R610) -/

@[simp] theorem raiseError_ieDone (c : ErrorCode) (info : Word) (s : State) : (raiseError c info s).ieDone = s.ieDone := by
  unfold raiseError; split <;> simp_all
@[simp] theorem raiseError_ieErr (c : ErrorCode) (info : Word) (s : State) : (raiseError c info s).ieErr = s.ieErr := by
  unfold raiseError; split <;> simp_all
@[simp] theorem raiseError_busy (c : ErrorCode) (info : Word) (s : State) : (raiseError c info s).busy = s.busy := by
  unfold raiseError; split <;> simp_all
@[simp] theorem raiseError_mready (c : ErrorCode) (info : Word) (s : State) : (raiseError c info s).mready = s.mready := by
  unfold raiseError; split <;> simp_all
@[simp] theorem raiseError_phase (c : ErrorCode) (info : Word) (s : State) : (raiseError c info s).phase = s.phase := by
  unfold raiseError; split <;> simp_all
@[simp] theorem raiseError_cdone (c : ErrorCode) (info : Word) (s : State) : (raiseError c info s).cdone = s.cdone := by
  unfold raiseError; split <;> simp_all
@[simp] theorem raiseError_err (c : ErrorCode) (info : Word) (s : State) : (raiseError c info s).err = true := by
  unfold raiseError; split <;> simp_all
@[simp] theorem raiseError_errovf (c : ErrorCode) (info : Word) (s : State) : (raiseError c info s).errovf = (s.errovf || s.err) := by
  unfold raiseError; split <;> simp_all
@[simp] theorem raiseError_errcode (c : ErrorCode) (info : Word) (s : State) : (raiseError c info s).errcode = if s.err then s.errcode else errorNumber c := by
  unfold raiseError; split <;> simp_all
@[simp] theorem raiseError_errinfo (c : ErrorCode) (info : Word) (s : State) : (raiseError c info s).errinfo = if s.err then s.errinfo else info := by
  unfold raiseError; split <;> simp_all
@[simp] theorem raiseError_len (c : ErrorCode) (info : Word) (s : State) : (raiseError c info s).len = s.len := by
  unfold raiseError; split <;> simp_all
@[simp] theorem raiseError_mdata (c : ErrorCode) (info : Word) (s : State) : (raiseError c info s).mdata = s.mdata := by
  unfold raiseError; split <;> simp_all
@[simp] theorem raiseError_chunk (c : ErrorCode) (info : Word) (s : State) : (raiseError c info s).chunk = s.chunk := by
  unfold raiseError; split <;> simp_all
@[simp] theorem raiseError_pt (c : ErrorCode) (info : Word) (s : State) : (raiseError c info s).pt = s.pt := by
  unfold raiseError; split <;> simp_all
@[simp] theorem raiseError_ct (c : ErrorCode) (info : Word) (s : State) : (raiseError c info s).ct = s.ct := by
  unfold raiseError; split <;> simp_all
@[simp] theorem raiseError_digest (c : ErrorCode) (info : Word) (s : State) : (raiseError c info s).digest = s.digest := by
  unfold raiseError; split <;> simp_all
@[simp] theorem raiseError_hs (c : ErrorCode) (info : Word) (s : State) : (raiseError c info s).hs = s.hs := by
  unfold raiseError; split <;> simp_all
@[simp] theorem raiseError_v (c : ErrorCode) (info : Word) (s : State) : (raiseError c info s).v = s.v := by
  unfold raiseError; split <;> simp_all
@[simp] theorem raiseError_w (c : ErrorCode) (info : Word) (s : State) : (raiseError c info s).w = s.w := by
  unfold raiseError; split <;> simp_all
@[simp] theorem raiseError_mstore (c : ErrorCode) (info : Word) (s : State) : (raiseError c info s).mstore = s.mstore := by
  unfold raiseError; split <;> simp_all
@[simp] theorem raiseError_pending (c : ErrorCode) (info : Word) (s : State) : (raiseError c info s).pending = s.pending := by
  unfold raiseError; split <;> simp_all
@[simp] theorem raiseError_script (c : ErrorCode) (info : Word) (s : State) : (raiseError c info s).script = s.script := by
  unfold raiseError; split <;> simp_all
@[simp] theorem raiseError_reply (c : ErrorCode) (info : Word) (s : State) : (raiseError c info s).reply = s.reply := by
  unfold raiseError; split <;> simp_all
@[simp] theorem raiseError_delay (c : ErrorCode) (info : Word) (s : State) : (raiseError c info s).delay = s.delay := by
  unfold raiseError; split <;> simp_all
@[simp] theorem raiseError_issued (c : ErrorCode) (info : Word) (s : State) : (raiseError c info s).issued = s.issued := by
  unfold raiseError; split <;> simp_all
@[simp] theorem raiseError_draws (c : ErrorCode) (info : Word) (s : State) : (raiseError c info s).draws = s.draws := by
  unfold raiseError; split <;> simp_all
@[simp] theorem raiseError_epoch (c : ErrorCode) (info : Word) (s : State) : (raiseError c info s).epoch = s.epoch := by
  unfold raiseError; split <;> simp_all
@[simp] theorem raiseError_runFaulted (c : ErrorCode) (info : Word) (s : State) : (raiseError c info s).runFaulted = true := by
  unfold raiseError; split <;> simp_all

end Sys2Proof.Machine
end

