-- ==== Sys2Proof/Laws/Step.lean ====
section
/-! SUPPORT. Everything a step can do, said once. -/

namespace Sys2Proof.Machine

/-- A step that goes on is the host's move, with or without a command pending, or the engine's step on the
command its pending word decodes to (R16, R104). -/
theorem step_cases {s t : State} (h : step s = .next t) :
    (s.pending = none ∧ t = hostStep s) ∨
    (∃ x, s.pending = some x ∧ engineTurn s = false ∧
      t = hostStep { s with delay := s.delay - 1 }) ∨
    ∃ x i, s.pending = some x ∧ engineTurn s = true ∧ decode x = .command i ∧ exec i s = .next t := by
  unfold step at h
  split at h
  · cases h
    exact .inl ⟨‹_›, rfl⟩
  · split at h
    · split at h
      · exact .inr (.inr ⟨_, _, ‹_›, ‹_›, ‹_›, h⟩)
      · cases h
    · cases h
      exact .inr (.inl ⟨_, ‹_›, by simpa using ‹¬ engineTurn s = true›, rfl⟩)

/-- A command that goes on ends in a completion of the state it computed (R104). -/
theorem exec_completes {i : Instr} {s t : State} (h : exec i s = .next t) : ∃ u, t = complete u := by
  cases i <;> simp only [exec, execNop, execInit, execAbsorb, execFinal, execGenMatrix, execMread,
    execAesEnc, execColLoadV, execColLoadW, execColMulx, execColAdd, execColReduce, execColStep] at h
  case final r =>
    split at h
    · exact ⟨_, by cases h; rfl⟩
    · cases h
  case mread idx =>
    split at h
    · exact ⟨_, by cases h; rfl⟩
    · cases h
  all_goals exact ⟨_, by cases h; rfl⟩

end Sys2Proof.Machine
end

