-- ==== Sys2Proof/Tests/Slice0.lean ====
section
/-! SUPPORT. The model's own tests. Expected values are those of spec/95_test_vectors.md, by its sections. -/

namespace Sys2Proof.Tests

open Machine Polynomial

/-- The `n` bytes of a number written with byte 0 first. -/
def bytesOf (n x : Nat) : List Byte :=
  (List.range n).map fun i => BitVec.ofNat 8 (x / 256 ^ (n - 1 - i))

/-- The 16 bytes of a number written with byte 0 first, as a cipher block. -/
def blockOf (x : Nat) : Block := Vector.ofFn fun i => BitVec.ofNat 8 (x / 256 ^ (15 - i.val))

/-- What holds of the next state, where there is one. -/
def nextHas (o : Host.Outcome State Fault Refusal) (p : State → Bool) : Bool :=
  match o with
  | .next t => p t
  | .fault _ => false
  | .refused _ => false

/-- A block without a matrix, right after reset. -/
def blank : State := { State.reset with mready := false, mstore := [] }

/-- Rows 0 and 1 of G as section 3 gives them. -/
def twoRows : List Byte :=
  bytesOf 64 0x66e94bd4ef8a2c3b884cfa59ca342b2e47711816e91d6ff059bbbf2bf58e0fd3bcf176a7eaad8085ebacea362462a2814ffc69772ed5a336f4615b4503c34814 ++
    bytesOf 64 0xf8321cf18ef5fe727dd82a5c1e9451412f1648bc9d95c37fee0fd75379fb7e599745d7b21972b10b3993cc5d2fdd788cd261fd7d579b0d4033baf06d4e35b90e

/-- A block whose MSTORE lists rows 0 and 1 of G. -/
def twoRowState : State := { blank with mready := true, mstore := Mem.cells 0 twoRows }

/-- A block with the whole matrix, right after reset. -/
def ready : State := { State.reset with mready := true, mstore := Mem.writeTable [] }

/-- Column CV9 of section 4: load(0). -/
def cv9 : Column :=
  #v[0x3b2c8aefd44be966, 0x2e2b34ca59fa4c88, 0xf06f1de916187147, 0xd30f8ef52bbfbb59,
     0x8580adeaa776f1bc, 0x81a2622436eaaceb, 0x36a3d52e7769fc4f, 0x1448c303455b61f4,
     0x72fef58ef11c32f8, 0x4151941e5c2ad87d]

/-- A block with a command pending and a script. -/
def running (x : Word) (script : List HostStmt) : State :=
  { blank with pending := some x, busy := true, script := script }

/-! ### Well-formed operands (R304, R306) -/

theorem test_wellformed_final_47 : (Instr.final 47).WellFormed = true := by decide

theorem test_illformed_final_48 : (Instr.final 48).WellFormed = false := by decide

theorem test_wellformed_mread_2049 : (Instr.mread 2049).WellFormed = true := by decide

theorem test_illformed_mread_2050 : (Instr.mread 2050).WellFormed = false := by decide

/-! ### Decoding (section 9) -/

theorem test_decode_nop : decode 0x0000000000000000 = .command .nop := by decide

theorem test_decode_init : decode 0x0000000000000001 = .command .init := by decide

theorem test_decode_absorb : decode 0x0000000000000002 = .command .absorb := by decide

theorem test_decode_final : decode 0x0000000000000c03 = .command (.final 12) := by decide

theorem test_decode_genMatrix : decode 0x0000000000000010 = .command .genMatrix := by decide

theorem test_decode_mread : decode 0x00000000000a0011 = .command (.mread 10) := by decide

theorem test_decode_aesEnc : decode 0x0000000000000020 = .command .aesEnc := by decide

theorem test_decode_colLoadV : decode 0x0000000000000030 = .command (.colLoadV 0) := by decide

theorem test_decode_colLoadW : decode 0x0000000000000131 = .command (.colLoadW 1) := by decide

theorem test_decode_colMulx : decode 0x0000000000000032 = .command .colMulx := by decide

theorem test_decode_colAdd : decode 0x0000000000000033 = .command .colAdd := by decide

theorem test_decode_colReduce : decode 0x0000000000000034 = .command .colReduce := by decide

theorem test_decode_colStep : decode 0x000000000000ff35 = .command (.colStep 255) := by decide

theorem test_decode_mread_2049 : decode 0x0000000008010011 = .command (.mread 2049) := by decide

theorem test_illegal_nop_bit8 : decode 0x0000000000000100 = .illegal .nonzeroBits := by decide

theorem test_illegal_absorb_bit32 : decode 0x0000000100000002 = .illegal .nonzeroBits := by decide

theorem test_illegal_final_bit16 : decode 0x0000000000010003 = .illegal .nonzeroBits := by decide

theorem test_illegal_mread_bit8 : decode 0x0000000000000111 = .illegal .nonzeroBits := by decide

theorem test_illegal_opc_ff : decode 0x00000000000000ff = .illegal .unassignedOpc := by decide

/-- Each row of the opcode table decodes to its command, as the host asks it. -/
theorem test_table_rows : opcodeTable.map (fun row => decodeTableWord 64 row.2.1.toNat) =
    [some .nop, some .init, some .absorb, some (.final 0), some .genMatrix, some (.mread 0),
     some .aesEnc, some (.colLoadV 0), some (.colLoadW 0), some .colMulx, some .colAdd,
     some .colReduce, some (.colStep 0)] := by decide

/-- Each row of the opcode table runs as the first instruction after reset. -/
theorem test_rows_run_first : opcodeTable.all (fun row =>
    nextHas (step (State.reset.withFetchWord 64 row.2.1.toNat)) fun t => t.cdone && !t.busy) = true := by
  decide +kernel

/-! ### Control (R400, R402) -/

theorem test_nop_completes : nextHas (exec .nop (running 0 [])) (fun t =>
    statusWord t == 0x10 && t.pending == none) = true := by decide

/-- INIT opens a context whatever the phase was (P1: STATUS 0x16 with the matrix there). -/
theorem test_init_status : nextHas (exec .init { blank with mready := true, phase := .done, len := 5 })
    (fun t => statusWord t == 0x16 && t.len == 0) = true := by decide

/-! ### The cipher (section 2) -/

theorem test_aes_zero : aesZero (blockOf 0) = blockOf 0x66e94bd4ef8a2c3b884cfa59ca342b2e := by
  decide +kernel

/-- P5: PT0 = 0x101 gives CT0 and CT1, and PT stays. -/
theorem test_aesEnc_p5 : nextHas (exec .aesEnc (writeReg (.pt 0) 0x101 blank)) (fun t =>
    regValue (.ct 0) t == 0x7fc3959dbc48162f && regValue (.ct 1) t == 0x597efb7953d70fee &&
      regValue (.pt 0) t == 0x101) = true := by decide +kernel

/-! ### The matrix (section 3) -/

/-- Row 255 with the fix-up of bytes 0 and 63. -/
theorem test_row_255 : (matrixRow 255).toList =
    bytesOf 64 0x9ab1e213757b46a164b49bdb1412f81a7a044e31e01d34f724583a1b6ea2a364a25ab34c39fd99b9c119d50325d45034feb56af83de56e75c618846c4bff2913 := by
  decide +kernel

theorem test_mread_10 : nextHas (exec (.mread 10) twoRowState) (fun t =>
    t.mdata == 0x7fc3959dbc48162f) = true := by decide +kernel

/-- Index 2049 reads offsets 16,392 to 16,399, the lowest first (R465: by hand, with bytes equal to their
offset modulo 256). -/
theorem test_mread_last_word : mstoreWord (fun a => BitVec.ofNat 8 a.val) 2049 (by decide) =
    0x0f0e0d0c0b0a0908 := by decide

/-! ### Columns (section 4) -/

/-- CV9: the overlap gives limbs 8 and 9. -/
theorem test_load_cv9 : nextHas (exec (.colLoadV 0) twoRowState) (fun t => t.v == cv9) = true := by decide +kernel

/-- CV10, limb 7; V is not written. -/
theorem test_load_w : nextHas (exec (.colLoadW 1) twoRowState) (fun t =>
    t.w[7] == 0x0eb9354e6df0ba33 && t.v == Column.zero) = true := by decide +kernel

/-- CV1. -/
theorem test_mulx_cv1 : nextHas (exec .colMulx { blank with v := #v[1, 2, 3, 4, 5, 6, 7, 8, 9, 10] })
    (fun t => t.v == #v[0, 0, 1, 2, 3, 4, 5, 6, 7, 8]) = true := by decide

/-- CV2, its limbs 0, 8 and 9. -/
theorem test_add_cv2 : nextHas (exec .colAdd { blank with
      v := #v[0x1111111111111111, 0, 0, 0, 0, 0, 0, 0, 0x9999999999999999, 0xaaaaaaaaaaaaaaaa]
      w := Vector.replicate 10 0xffffffffffffffff })
    (fun t => t.v[0] == 0xeeeeeeeeeeeeeeee && t.v[8] == 0x6666666666666666 &&
      t.v[9] == 0xaaaaaaaaaaaaaaaa) = true := by decide

/-- CV3. -/
theorem test_reduce_cv3 : reduce #v[0, 0, 0, 0, 0, 0, 0, 0xe000000000000000, 0, 0] =
    #v[7, 0, 0, 0, 0, 0, 0, 0, 0, 0] := by decide

/-- CV7. -/
theorem test_reduce_cv7 : nextHas (exec .colReduce { blank with
      v := Vector.replicate 10 0xffffffffffffffff })
    (fun t => t.v == #v[0, 0, 0xfffffffffffffff8, 0xffffffffffffffff, 0xffffffffffffffff,
      0xffffffffffffffff, 0xffffffffffffffff, 0x1fffffffffffffff, 0, 0]) = true := by decide

/-- CV13: the column step on CV9 and CV10. -/
theorem test_step_cv13 : stepWith cv9
    #v[0x72fef58ef11c32f8, 0x4151941e5c2ad87d, 0x7fc3959dbc48162f, 0x597efb7953d70fee,
       0x0bb17219b2d74597, 0x8c78dd2f5dcc9339, 0x400d9b577dfd61d2, 0x0eb9354e6df0ba33,
       0xc86391cbc5022c29, 0x2de9d81dcff6c00a] =
    #v[0x84fcd2a36242b1cc, 0xe3178c0476f1d7da, 0x44ef1f726803ff49, 0x7755cfb30a2d4366,
       0xfbde6ff0a4cf34d0, 0x5f7753da76732860, 0xc58d36bdda8b906e, 0x0f1b576a5b1a16d8, 0, 0] := by
  decide

/-- COL_STEP loads W, overlap and all, and leaves V reduced. -/
theorem test_colStep_loads_w : nextHas (exec (.colStep 0) twoRowState) (fun t =>
    t.w[9] == 0x4151941e5c2ad87d && t.v[8] == 0 && t.v[9] == 0) = true := by decide +kernel

/-! ### The mixer, the pad and the filter (sections 5, 6, 7) -/

/-- M1's loop: 111 steps on CV9 from CV9 give V. -/
theorem test_mix_m1 : (List.replicate 111 cv9).foldl stepWith cv9 =
    #v[0xb1781d1eb782c2da, 0xc444122d97c3ca79, 0x0db29f5369190155, 0xc9dafd5fa80e9393,
       0x676089427bf0f618, 0x96d2e81485290f80, 0x738032c6c221525d, 0x08924c4b2b0a7452, 0, 0] := by
  decide +kernel

/-- ABSORB: LEN grows by 48, the context stays open, W is the load of CHUNK's last byte. -/
theorem test_absorb : nextHas (exec .absorb { twoRowState with phase := .absorb, len := 48 }) (fun t =>
    t.len == 96 && t.phase == .absorb && t.w[9] == 0x4151941e5c2ad87d) = true := by decide +kernel

theorem test_pad_12 : pad (bytesOf 12 0x48656c6c6f20776f726c6421) 12 =
    bytesOf 12 0x48656c6c6f20776f726c6421 ++ List.replicate 28 0 ++ bytesOf 8 0x0c00000000000000 := by
  decide +kernel

/-- R = 41 takes the two-chunk pad. -/
theorem test_pad_41 : (pad (List.replicate 41 0) 41).length = 96 := by decide +kernel

theorem test_filter_zero : (filter (setMarkers HashState.zero)).toList =
    bytesOf 32 0xf5a5fd42d16a20302798ef6ed309979b43003d2320d9f0e8ea9831a92759fb4b := by
  decide +kernel

/-- FINAL sets the markers, LEN and PHASE. -/
theorem test_final_markers : nextHas (exec (.final 1) { blank with len := 48, phase := .absorb }) (fun t =>
    t.hs[64] == 0x80 && t.len == 49 && t.phase == .done) = true := by decide +kernel

/-! ### Issue (section 9) -/

theorem test_issue_illegal : statusWord (issueCmd 0x100 { blank with mready := true, phase := .absorb }) = 0x126 := by
  decide

theorem test_issue_sequence : statusWord (issueCmd 0x2 { blank with mready := true }) = 0x422 := by
  decide

theorem test_issue_matrix_first : statusWord (issueCmd 0x3 blank) = 0x320 := by decide

theorem test_issue_operand_first : statusWord (issueCmd 0x3003 blank) = 0x220 := by decide

theorem test_issue_overflow : statusWord (issueCmd 0x103
    { blank with mready := true, phase := .absorb, len := 0xffffffffffffffff }) = 0x526 := by decide

theorem test_issue_last_length : statusWord (issueCmd 0x2
    { blank with mready := true, phase := .absorb, len := 0xffffffffffffffff - 48 }) = 0x7 := by decide

theorem test_issue_busy : statusWord (issueCmd 0xff
    { blank with mready := true, phase := .absorb, busy := true }) = 0x627 := by decide

/-- A write to V9 while busy is discarded with its offset. -/
theorem test_write_busy : (writeReg (.v 9) 5 { blank with busy := true }).errinfo = 0x1c8 := by decide

/-- P7: the soft reset drops the command in flight and keeps MREADY. -/
theorem test_softReset : statusWord (writeReg .ctrl 1
    { running 2 [] with mready := true, phase := .absorb }) = 0x2 := by decide

/-! ### Host scripts (R309, R310, R311) -/

theorem test_assemble : assemble "COL_STEP 255" = some 0xff35 := by decide +kernel

theorem test_assemble_wide : assemble "FINAL 256" = none := by decide +kernel

theorem test_script : scriptOfText "DO FINAL 12 ; pad\nCLRERR" =
    some [.write 0x018 64 0xc03, .wait, .write 0x010 64 0x20] := by decide +kernel

/-! ### Witnesses: states and operands that meet the hypotheses of the statements -/

/-- A state without a context, an error or a pending command meets the invariant. -/
theorem inv_quiet {s : State} (hb : s.busy = false) (hp : s.pending = none) (he : s.err = false)
    (ho : s.errovf = false) (hc : s.errcode = 0 ∧ s.errinfo = 0) (hm : s.mstore.wf)
    (ht : s.mready = true → ∀ a, a < 16384 → s.mstore.byte? a = some (tableByte a))
    (hphase : s.phase = .idle)
    (hi : s.hs = HashState.zero ∧ s.len = 0 ∧ s.digest = Vector.replicate 32 0) : StateInv s where
  busyPending := by rw [hb, hp]; rfl
  accepted := by simp [hp]
  noError := fun _ => hc
  errorCode := by simp [he]
  runRecord := by simp [he, ho]
  memory := hm
  table := ht
  idle := fun _ => hi
  openContext := by simp [hphase]
  finished := by simp [hphase]

theorem inv_blank : StateInv blank :=
  inv_quiet rfl rfl rfl rfl ⟨rfl, rfl⟩ Mem.wf_nil (fun h => absurd h (by decide)) rfl ⟨rfl, rfl, rfl⟩

/-- So does a block after reset with its matrix in place. -/
theorem inv_matrix {m : Mem} (hm : m.wf) (ht : ∀ a, a < 16384 → m.byte? a = some (tableByte a)) :
    StateInv { State.reset with mready := true, mstore := m } :=
  inv_quiet rfl rfl rfl rfl ⟨rfl, rfl⟩ hm (fun _ => ht) rfl ⟨rfl, rfl, rfl⟩

theorem inv_ready : StateInv ready :=
  inv_matrix (Mem.wf_writeTable Mem.wf_nil) fun a ha => by rw [Mem.byte?_writeTable, if_pos ha]

/-- A pending NOP, whatever the script, meets the invariant. -/
theorem inv_running (script : List HostStmt) : StateInv (running 0 script) where
  busyPending := rfl
  accepted := fun x hx => by cases hx; exact ⟨.nop, by decide, rfl⟩
  noError := fun _ => ⟨rfl, rfl⟩
  errorCode := nofun
  runRecord := fun h => by rcases h with h | h <;> cases h
  memory := Mem.wf_nil
  table := nofun
  idle := fun _ => ⟨rfl, rfl, rfl⟩
  openContext := nofun
  finished := nofun

/-- EncodeOfDecode. -/
theorem witness_decodes : decode 0xff35 = .command (.colStep 255) := by decide

/-- IllegalIffNoRow: a word on each side. -/
theorem witness_no_row : (∀ row ∈ opcodeTable, (0x100 : Word) &&& row.2.2 ≠ row.2.1) ∧
    ∃ row ∈ opcodeTable, (0x2f03 : Word) &&& row.2.2 = row.2.1 := by decide

/-- StepRunsPending. -/
theorem witness_engine_turn : (running 0 [.wait]).pending = some 0 ∧
    engineTurn (running 0 [.wait]) = true ∧ decode 0 = .command .nop := by decide

/-- StepIsHostsOtherwise: its three clauses. -/
theorem witness_host_turn : blank.pending = none ∧ blank.script = [] ∧
    ({ running 0 [.read 0x010 64] with delay := 1 }.pending = some 0 ∧
      engineTurn { running 0 [.read 0x010 64] with delay := 1 } = false) := by decide

/-- WaitEnds. -/
theorem witness_wait : StateInv (running 0 [.wait]) ∧ (running 0 [.wait]).pending ≠ none ∧
    (running 0 [.wait]).script = .wait :: [] := ⟨inv_running _, by decide, rfl⟩

/-- TableRowsReduced, GenMatrixRepeats, MreadOfReadyMatrix: the last index of each clause completes. -/
theorem witness_ready : StateInv ready ∧ ready.mready = true ∧
    (∃ t, exec (.mread 2047) ready = .next t) ∧ (∃ t, exec (.mread 2048) ready = .next t) ∧
    ∃ t, exec (.mread 2049) ready = .next t :=
  ⟨inv_ready, rfl, ⟨_, rfl⟩, ⟨_, rfl⟩,
    ⟨_, rfl⟩⟩

/-- MreadResult at both ends; OutOfRangeNeverRuns just past the end of each range, and its third clause. -/
theorem witness_ranges : (0 : Half).toNat ≤ 2049 ∧ (2049 : Half).toNat ≤ 2049 ∧
    2049 < (2050 : Half).toNat ∧ 2049 < (0xffff : Half).toNat ∧ 47 < (48 : Byte).toNat ∧
    47 < (255 : Byte).toNat ∧ (Instr.final 48).WellFormed = false ∧ blank.busy = false ∧
    blank.err = false := by decide

/-- ColumnWindow: the positions at both ends of its second clause. -/
theorem witness_positions : (0 : Byte).toNat ≤ 254 ∧ (254 : Byte).toNat ≤ 254 := by decide

/-- MulxIsMultiplication and StepAlgebra: a reduced column that is not zero. -/
theorem witness_reduced : Reduced #v[1, 0, 0, 0, 0, 0, 0, 0x1fffffffffffffff, 0, 0] := by
  unfold Reduced
  decide

/-- ReductionInvariant: each of its four commands completes. -/
theorem witness_reducing : (∃ t, exec .colReduce blank = .next t) ∧
    (∃ t, exec (.colStep 255) blank = .next t) ∧ (∃ t, exec .absorb blank = .next t) ∧
    ∃ t, exec (.final 47) blank = .next t :=
  ⟨⟨_, rfl⟩, ⟨_, rfl⟩, ⟨_, rfl⟩,
    ⟨_, rfl⟩⟩

/-- TailIndependence, first clause: two readers that differ in the tail only, and a buffer without 255. -/
theorem witness_tail_free : (∀ a : MOffset, a.val < 16384 →
      (fun _ : MOffset => (0 : Byte)) a = (fun a => if a.val < 16384 then 0 else 1) a) ∧
    ∀ i : Fin 112, 1 ≤ i.val →
      (positionBuffer HashState.zero (Vector.replicate 48 0))[i] ≠ 255 :=
  ⟨fun a ha => by simp [ha], by decide +kernel⟩

/-- TailIndependence, second clause: two readers that differ in tail bytes 8 to 15 only. -/
theorem witness_tail_high : ∀ a : MOffset, a.val < 16392 →
    (fun _ : MOffset => (0 : Byte)) a = (fun a => if a.val < 16392 then 0 else 1) a :=
  fun a ha => by simp [ha]

/-- PadAndItsPasses, FinalResult: the remainders where the clauses meet. -/
theorem witness_remainders : (List.replicate 40 (0 : Byte)).length ≤ 40 ∧
    41 ≤ (List.replicate 41 (0 : Byte)).length ∧ (List.replicate 47 (0 : Byte)).length ≤ 47 ∧
    ([] : List Byte).length ≤ 40 ∧ (0 : Byte).toNat ≤ 47 ∧ (47 : Byte).toNat ≤ 47 := by decide

/-- FinalIgnoresRest: two chunks that differ from byte 47 on. -/
theorem witness_rest : (∀ i : Fin 48, i.val < (47 : Byte).toNat →
      ((Vector.replicate 48 (0 : Byte)).set 47 1)[i] = blank.chunk[i]) ∧
    (Vector.replicate 48 (0 : Byte)).set 47 1 ≠ blank.chunk := by decide +kernel

/-- FilterIsSha256. -/
theorem witness_markers : (setMarkers HashState.zero)[64] = 0x80 ∧
    (setMarkers HashState.zero)[126] = 0x02 ∧
    ∀ i : Fin 128, 64 ≤ i.val → i.val ≠ 64 → i.val ≠ 126 → (setMarkers HashState.zero)[i] = 0 := by
  decide +kernel

/-- ContextComputesHash. -/
theorem witness_message : (List.replicate 49 (1 : Byte)).length < 2 ^ 64 := by decide

/-- RaiseRecords, DiscardWhileError, IssueCheckOrder: the first hypotheses. -/
theorem witness_idle_block : blank.busy = false ∧ blank.err = false ∧
    ({ blank with err := true }.busy = false ∧ { blank with err := true }.err = true) := by decide

/-- IssueCheckOrder: an illegal word; a bad operand that also lacks the matrix; ABSORB without the matrix, out of
context, past the length and, at the last length, accepted; FINAL past the length. -/
theorem witness_check_order : decode 0xff = .illegal .unassignedOpc ∧
    decode 0x3003 = .command (.final 48) ∧ 47 < (48 : Byte).toNat ∧
    decode 0x8020011 = .command (.mread 2050) ∧ 2049 < (2050 : Half).toNat ∧
    decode 2 = .command .absorb ∧ blank.mready = false ∧
    ready.mready = true ∧ ready.phase ≠ .absorb ∧
    (0xffffffffffffffd0 : Word).toNat + 48 > 2 ^ 64 - 1 ∧
    ¬ (0xffffffffffffffcf : Word).toNat + 48 > 2 ^ 64 - 1 ∧
    decode 0x103 = .command (.final 1) ∧ (0xffffffffffffffff : Word).toNat + (1 : Byte).toNat > 2 ^ 64 - 1 ∧
    ¬ (0xffffffffffffffff : Word).toNat + (0 : Byte).toNat > 2 ^ 64 - 1 := by
  refine ⟨by decide, by decide, by decide, by decide, by decide, by decide, rfl, rfl, by decide, ?_⟩
  decide +kernel

/-- GuardedAndIgnoredWrites, ReadsHaveNoEffect: a busy block. -/
theorem witness_busy : (running 0 []).busy = true ∧ blank.busy = false := by decide

/-- BusErrors: accesses at the edges of each range, refused and allowed. -/
theorem witness_offsets : regAt 0x030 = some .mdata ∧ regAt 0x038 = none ∧ regAt 0x040 = some (.chunk 0) ∧
    regAt 0x0a8 = some (.digest 3) ∧ regAt 0x0b0 = none ∧ regAt 0x0f8 = none ∧
    regAt 0x100 = some (.hs 0) ∧ regAt 0x218 = some (.w 9) ∧ regAt 0x220 = none ∧ regAt 0x400 = none ∧
    regAt 0x004 = none := by decide

/-- WriteReadsBack: a register of each kind at its last number, and one that differs from it. -/
theorem witness_writes : blank.busy = false ∧ (∃ k, Reg.chunk 5 = .chunk k) ∧ (∃ k, Reg.pt 1 = .pt k) ∧
    (∃ k, Reg.v 9 = .v k) ∧ (∃ k, Reg.w 9 = .w k) ∧ Reg.v 8 ≠ Reg.v 9 :=
  ⟨rfl, ⟨5, rfl⟩, ⟨1, rfl⟩, ⟨9, rfl⟩, ⟨9, rfl⟩, by decide⟩

/-- CtrlWrite: both clauses. -/
theorem witness_ctrl : (1 : Word).getLsbD 0 = true ∧ (6 : Word).getLsbD 0 = false := by decide

/-- HardResetValues: each state of the list, and MATRIX_AT_RESET is one of the two values. -/
theorem witness_reset : State.reset ∈ [State.reset, hardReset blank] ∧
    (Config.matrixAtReset = .preloaded ∨ Config.matrixAtReset = .empty) :=
  ⟨by simp, by cases Config.matrixAtReset <;> simp⟩

/-- InterruptRequest, EveryCompletion: a command completes. -/
theorem witness_completes : ∃ t, exec .nop (running 0 []) = .next t := ⟨_, rfl⟩

/-- EveryCommandCompletes. -/
theorem witness_wellformed : (Instr.final 47).WellFormed = true ∧ (Instr.mread 2049).WellFormed = true := by
  decide

/-- StepKeepsInvariant, NeverStops: the engine's step and the host's. -/
theorem witness_steps : StateInv (running 0 [.wait]) ∧ (∃ t, step (running 0 [.wait]) = .next t) ∧
    StateInv blank ∧ ∃ t, step blank = .next t :=
  ⟨inv_running _, ⟨_, rfl⟩, inv_blank, ⟨_, rfl⟩⟩

theorem genMatrix_next (s : State) :
    ∃ t, exec .genMatrix s = .next t ∧ t.mready = true ∧ t.mstore = s.mstore.writeTable := by
  simp [exec, execGenMatrix, complete]

/-- OnlyGenMatrixWrites, MreadyChanges: GEN_MATRIX on a block without a matrix changes both. -/
theorem witness_matrix_changes : ∃ t, step (running 0x10 []) = .next t ∧ t.mstore ≠ [] ∧
    t.mready = true ∧ (running 0x10 []).mstore = [] ∧ (running 0x10 []).mready = false := by
  obtain ⟨t, ht, hr, hm⟩ := genMatrix_next (running 0x10 [])
  refine ⟨t, ht, fun h => ?_, hr, rfl, rfl⟩
  have h0 : t.mstore.byte? 0 = some (tableByte 0) := by rw [hm, Mem.byte?_writeTable]; rfl
  rw [h] at h0
  cases h0

/-- MreadyChanges, its last clause, for a build with MATRIX_AT_RESET = EMPTY. -/
theorem witness_matrix_lost (h : Config.matrixAtReset = .empty) :
    ∃ t, step { ready with script := [.hardReset] } = .next t ∧ ready.mready = true ∧ t.mready = false :=
  ⟨_, rfl, rfl, by show resetMready = false; simp [resetMready, h]⟩

/-- PhaseTransitions: each of its three clauses. -/
theorem witness_phases : (∃ t, step (running 0x1 []) = .next t ∧ t.phase = .absorb) ∧
    (∃ t, step { running 0x3 [] with phase := .absorb } = .next t ∧ t.phase = .done) ∧
    ∃ t, step { blank with phase := .done, script := [.write 0x008 64 1] } = .next t ∧ t.phase = .idle :=
  ⟨⟨_, rfl, rfl⟩, ⟨_, rfl, rfl⟩, ⟨_, rfl, rfl⟩⟩

end Sys2Proof.Tests
end

section
/-! The byte-order primitives of R12: their sums, and that the bytes of a value determine it, so that
one direction of each inverse gives the other. -/

namespace Sys2Proof.Laws.ByteOrder

open Machine

/-- The value of an appended vector, as a sum in place of Lean's shift and or. -/
theorem toNat_append_eq_add {m n : Nat} (x : BitVec m) (y : BitVec n) :
    (x ++ y).toNat = x.toNat * 2 ^ n + y.toNat := by
  rw [BitVec.toNat_append, ← Nat.shiftLeft_add_eq_or_of_lt y.isLt, Nat.shiftLeft_eq]

/-- A value of `m` bytes is determined by its bytes. -/
theorem eq_of_leByte_eq {m : Nat} {x y : BitVec (8 * m)} (h : ∀ j < m, leByte x j = leByte y j) :
    x = y := by
  refine BitVec.eq_of_getLsbD_eq fun k hk => ?_
  have hbit := congrArg (fun z => z.getLsbD (k % 8)) (h (k / 8) (by omega))
  simpa only [getLsbD_leByte, Nat.div_add_mod, Nat.mod_lt k (show 8 > 0 by decide), decide_true,
    Bool.true_and] using hbit

/-! ### LE64 and LE128 -/

theorem toNat_le64 (b : Fin 8 → Byte) :
    (le64 b).toNat = ∑ k : Fin 8, (b k).toNat * 2 ^ (8 * k.val) := by
  simp only [le64, toNat_append_eq_add, Fin.sum_univ_eight, Fin.coe_ofNat_eq_mod, Nat.reduceMod,
    Nat.reduceMul]
  omega

/-- LE128 is the sum of its bytes: the low half as LE64 has it, the high half 64 bits further up. -/
theorem toNat_le128 (b : Block) :
    (le128 b).toNat = ∑ k : Fin 16, b[k].toNat * 2 ^ (8 * k.val) := by
  rw [le128, toNat_append_eq_add, toNat_le64, toNat_le64, Finset.sum_mul, add_comm]
  refine .trans (congrArg _ (Finset.sum_congr rfl fun k _ => ?_))
    (Fin.sum_univ_add (a := 8) (b := 8) fun k => b[k].toNat * 2 ^ (8 * k.val)).symm
  show _ = b[8 + k.val].toNat * 2 ^ (8 * (8 + k.val))
  rw [mul_assoc, ← pow_add, show 8 * (8 + k.val) = 8 * k.val + 64 by omega]

/-- Byte `j` of LE128 is byte `j` of the block, in the low half and in the high half. -/
@[simp] theorem leByte_le128 (b : Block) (j : Fin 16) : leByte (le128 b) j.val = b[j] := by
  by_cases hj : j.val < 8
  · calc leByte (le128 b) j.val
        = leByte (le64 fun k => b[k.val]) j.val :=
          BitVec.extractLsb'_append_eq_of_add_le (by omega)
      _ = b[j] := leByte_le64 _ ⟨j.val, hj⟩
  · calc leByte (le128 b) j.val
        = leByte (le64 fun k => b[8 + k.val]) (j.val - 8) := by
          rw [leByte, le128, BitVec.extractLsb'_append_eq_of_le (by omega), leByte, Nat.mul_sub]
      _ = b[8 + (j.val - 8)] := leByte_le64 _ ⟨j.val - 8, by omega⟩
      _ = b[j] := by simp [show 8 + (j.val - 8) = j.val by omega]

@[simp] theorem getElem_le128Bytes (x : BitVec 128) (j : Nat) (hj : j < 16) :
    (le128Bytes x)[j] = leByte x j := by
  simp [le128Bytes]

@[simp] theorem le128Bytes_le128 (b : Block) : le128Bytes (le128 b) = b :=
  Vector.ext fun j hj => (getElem_le128Bytes _ j hj).trans (leByte_le128 b ⟨j, hj⟩)

@[simp] theorem le128_le128Bytes (x : BitVec 128) : le128 (le128Bytes x) = x :=
  eq_of_leByte_eq (m := 16) fun j hj =>
    (leByte_le128 _ ⟨j, hj⟩).trans (getElem_le128Bytes x j hj)

/-! ### BE32 -/

theorem toNat_be32 (b : Fin 4 → Byte) :
    (be32 b).toNat = ∑ k : Fin 4, (b k).toNat * 2 ^ (8 * (3 - k.val)) := by
  simp only [be32, toNat_append_eq_add, Fin.sum_univ_four, Fin.coe_ofNat_eq_mod, Nat.reduceMod,
    Nat.reduceSub, Nat.reduceMul]
  omega

/-- Byte `k` of BE32 is the digit of its sum at 2^(8(3 - k)). -/
@[simp] theorem beByte_be32 (b : Fin 4 → Byte) (k : Fin 4) : beByte (be32 b) k.val = b k := by
  refine BitVec.eq_of_toNat_eq ?_
  rw [beByte, BitVec.extractLsb'_toNat, toNat_be32, Fin.sum_univ_four, Nat.shiftRight_eq_div_pow]
  fin_cases k <;>
    simp only [Fin.coe_ofNat_eq_mod, Nat.reduceMod, Nat.reduceSub, Nat.reduceMul, Fin.zero_eta,
      Fin.mk_one, Fin.reduceFinMk] <;>
    omega

/-- Byte `k` in little-endian order is byte `3 - k` in big-endian order. -/
theorem leByte_eq_beByte (x : Word32) {k : Nat} (hk : k < 4) : leByte x k = beByte x (3 - k) := by
  rw [leByte, beByte, Nat.sub_sub_self (Nat.le_of_lt_succ hk)]

@[simp] theorem be32_beByte (x : Word32) : be32 (fun k => beByte x k.val) = x :=
  eq_of_leByte_eq (m := 4) fun j hj => by
    rw [leByte_eq_beByte _ hj, leByte_eq_beByte _ hj]
    exact beByte_be32 _ ⟨3 - j, by omega⟩

/-- Settles O5: the sums by value of an append, the inverses by the bytes of each primitive. -/
theorem byteOrderSums : Obligations.ByteOrderSums :=
  ⟨toNat_le64, le64_leByte, leByte_le64, fun x k => getElem?_le64Bytes x k.val k.isLt,
    toNat_le128, le128_le128Bytes, le128Bytes_le128, fun x k => getElem_le128Bytes x k.val k.isLt,
    toNat_be32, be32_beByte, beByte_be32⟩

end Sys2Proof.Laws.ByteOrder
end

section
/-! The register window: what a host write does on an idle block, on a busy one and to a read-only register (R106,
R108), the byte-array registers (R109) and CTRL (R111, R112). -/

namespace Sys2Proof.Laws.Registers

open Machine

/-! ### Which writes are performed -/

/-- While idle every register write is performed. -/
theorem writeReg_of_idle {s : State} (h : s.busy = false) (r : Reg) (x : Word) :
    writeReg r x s = performWrite r x s := by
  simp [writeReg, h]

/-- A register that R108 does not guard takes its write, busy or not. -/
theorem writeReg_of_unguarded {r : Reg} (h : guardedWhileBusy r = false) (x : Word) (s : State) :
    writeReg r x s = performWrite r x s := by
  simp [writeReg, h]

/-- A write to a guarded register while busy raises BUSY_WRITE with the register's offset (R108, R606). -/
theorem writeReg_of_busy {s : State} (hs : s.busy = true) {r : Reg} (hr : guardedWhileBusy r = true)
    (x : Word) : writeReg r x s = raiseError .busyWrite (BitVec.ofNat 64 (regOffset r)) s := by
  simp [writeReg, hs, hr]

/-- The same for register NAMEk, whose offset is that of NAME0 plus 8k (R105). -/
theorem writeReg_of_busy_indexed {s : State} (hs : s.busy = true) {r : Reg}
    (hr : guardedWhileBusy r = true) {base k : Nat} (ho : regOffset r = base + 8 * k) (x : Word) :
    writeReg r x s =
      raiseError .busyWrite (BitVec.ofNat 64 base + 8 * BitVec.ofNat 64 k) s := by
  rw [writeReg_of_busy hs hr, ho, BitVec.ofNat_add, BitVec.ofNat_mul]
  rfl

/-- Settles O42: a guarded register is refused at its offset, every other one performs its write, which for a
read-only register is no change. -/
theorem guardedAndIgnoredWrites : Obligations.GuardedAndIgnoredWrites := by
  constructor
  · intro s x hb
    exact ⟨writeReg_of_busy hb rfl x,
      fun _ => writeReg_of_busy_indexed hb rfl rfl x, fun _ => writeReg_of_busy_indexed hb rfl rfl x,
      fun _ => writeReg_of_busy_indexed hb rfl rfl x, fun _ => writeReg_of_busy_indexed hb rfl rfl x,
      writeReg_of_unguarded rfl x s, writeReg_of_unguarded rfl x s⟩
  · intro s x
    have ignored {r : Reg} (hr : guardedWhileBusy r = false) (hp : performWrite r x s = s) :
        writeReg r x s = s := (writeReg_of_unguarded hr x s).trans hp
    exact ⟨ignored rfl rfl, ignored rfl rfl, ignored rfl rfl, ignored rfl rfl,
      fun _ => ignored rfl rfl, fun _ => ignored rfl rfl, fun _ => ignored rfl rfl⟩

/-! ### The byte-array registers -/

/-- Byte `8k + i` after a write of NAMEk is byte `i` of the word written (R109). -/
theorem setArrayWord_written {m : Nat} (a : Vector Byte (8 * m)) (k : Fin m) (x : Word) (i : Fin 8) :
    (setArrayWord a k x)[8 * k.val + i.val] = x.extractLsb' (8 * i.val) 8 := by
  rw [getElem_setArrayWord, if_pos (by omega), leByte, show (8 * k.val + i.val) % 8 = i.val by omega]

/-- A byte outside `8k` to `8k + 7` is kept by a write of NAMEk (R109). -/
theorem setArrayWord_kept {m : Nat} (a : Vector Byte (8 * m)) (k : Fin m) (x : Word) {j : Nat}
    (hj : j < 8 * m) (h : j / 8 ≠ k.val) : (setArrayWord a k x)[j] = a[j] := by
  rw [getElem_setArrayWord, if_neg h]

/-- Settles O44: the values by definition of `arrayWord`, the writes by the bytes of `setArrayWord`. -/
theorem byteMapping : Obligations.ByteMapping := by
  refine ⟨fun s => ⟨fun _ => rfl, fun _ => rfl, fun _ => rfl, fun _ => rfl, fun _ => rfl, rfl, rfl⟩,
    fun s x hb => ⟨fun k => ?_, fun k => ?_⟩⟩ <;>
  rw [writeReg_of_idle hb, performWrite]
  · exact ⟨rfl, setArrayWord_written (m := 6) s.chunk k x,
      fun j => setArrayWord_kept (m := 6) s.chunk k x j.isLt⟩
  · exact ⟨rfl, setArrayWord_written (m := 2) s.pt k x,
      fun j => setArrayWord_kept (m := 2) s.pt k x j.isLt⟩

/-! ### CTRL -/

/-- CTRL reads 0 where both enables are off (R111). -/
theorem ctrlWord_of_disabled {s : State} (hd : s.ieDone = false) (he : s.ieErr = false) :
    ctrlWord s = 0 := by
  rw [ctrlWord, hd, he]
  rfl

/-- CTRL reads back bits 1 and 2 of the word that set the enables, all other bits 0 (R111). -/
theorem ctrlWord_of_enables {s : State} {x : Word} (hd : s.ieDone = x.getLsbD 1)
    (he : s.ieErr = x.getLsbD 2) : ctrlWord s = x &&& 0x6 := by
  refine BitVec.eq_of_getLsbD_eq fun k hk => ?_
  rw [ctrlWord, hd, he, BitVec.getLsbD_and]
  simp only [BitVec.getLsbD_append, BitVec.getLsbD_ofBool, BitVec.getLsbD_zero]
  match k with
  | 0 | 1 | 2 => simp
  | k + 3 => simp [BitVec.getLsbD_ofNat, Nat.testBit_add_one]

/-- Bit 0 of a CTRL write is the soft reset, whatever bits 1 and 2 are (R112). -/
theorem writeCtrl_of_reset {x : Word} (h : x.getLsbD 0 = true) (s : State) :
    writeCtrl x s = softReset s := if_pos h

/-- Without bit 0 a CTRL write sets the two enables and nothing else (R112). -/
theorem writeCtrl_of_enables {x : Word} (h : x.getLsbD 0 = false) (s : State) :
    writeCtrl x s = { s with ieDone := x.getLsbD 1, ieErr := x.getLsbD 2 } := by
  rw [writeCtrl, h]
  rfl

/-- Settles O49: a CTRL write is performed in every state, and CTRL shows the enables it leaves. -/
theorem ctrlWrite : Obligations.CtrlWrite := by
  intro s x
  have hw : writeReg .ctrl x s = writeCtrl x s := writeReg_of_unguarded rfl x s
  rw [hw]
  refine ⟨fun h => ?_, fun h => ?_⟩
  · rw [writeCtrl_of_reset h]
    exact ⟨rfl, ctrlWord_of_disabled (softReset_ieDone s) (softReset_ieErr s)⟩
  · rw [writeCtrl_of_enables h]
    exact ⟨rfl, ctrlWord_of_enables rfl rfl⟩

end Sys2Proof.Laws.Registers
end

section
/-! What every command that completes leaves of the state it began in (R104), and the interrupt request after it
(R630, R631). -/

namespace Sys2Proof.Laws.Completion

open Machine

/-- A command that completes clears BUSY and the pending word, sets CDONE, and keeps every field but the ones
that some command computes. -/
theorem exec_next_frame {i : Instr} {s t : State} (h : exec i s = .next t) :
    t = { s with
      busy := false, pending := none, cdone := true
      mready := t.mready, mstore := t.mstore, phase := t.phase, len := t.len, mdata := t.mdata
      ct := t.ct, digest := t.digest, hs := t.hs, v := t.v, w := t.w } := by
  cases i <;> simp only [exec, execNop, execInit, execAbsorb, execFinal, execGenMatrix, execMread,
    execAesEnc, execColLoadV, execColLoadW, execColMulx, execColAdd, execColReduce, execColStep] at h
  case final r | mread idx =>
    split at h
    · obtain rfl := Host.Outcome.next.inj h
      simp only [complete]
    · cases h
  all_goals
    obtain rfl := Host.Outcome.next.inj h
    simp only [complete]

/-- Settles O52: CDONE is 1 after a completion, and the enables and ERR are those from before it. -/
theorem interruptRequest : Obligations.InterruptRequest := by
  refine ⟨fun s => rfl, fun s t i h => ?_⟩
  rw [exec_next_frame h, irq, Bool.true_and]

end Sys2Proof.Laws.Completion
end

section
/-! The generating matrix: the bytes of the counter blocks (R460) and of every row of G (R461). -/

namespace Sys2Proof.Laws.Matrix

open Machine

/-! ### The counter blocks -/

/-- Byte `i` of a value is its digit at 2^(8i). -/
theorem leByte_ofNat {w n : Nat} (h : n < 2 ^ w) (i : Nat) :
    leByte (BitVec.ofNat w n) i = BitVec.ofNat 8 (n / 2 ^ (8 * i)) := by
  refine BitVec.eq_of_toNat_eq ?_
  simp only [leByte, BitVec.extractLsb'_toNat, BitVec.toNat_ofNat, Nat.mod_eq_of_lt h,
    Nat.shiftRight_eq_div_pow]

/-- The shift and or of the counter put a block number below 256 under the row number (R460). -/
theorem shiftLeft_or_eq_ofNat {w : Nat} (j : Nat) {k : Nat} (hk : k < 2 ^ 8) :
    (BitVec.ofNat w j <<< 8) ||| BitVec.ofNat w k = BitVec.ofNat w (j * 2 ^ 8 + k) := by
  have hp : BitVec.twoPow w 8 = BitVec.ofNat w (2 ^ 8) :=
    BitVec.eq_of_toNat_eq (BitVec.toNat_twoPow w 8)
  rw [BitVec.shiftLeft_eq_mul_twoPow, hp, ← BitVec.ofNat_mul, ← BitVec.ofNat_or,
    ← Nat.shiftLeft_eq, ← Nat.shiftLeft_add_eq_or_of_lt hk, Nat.shiftLeft_eq]

/-- Byte 0 of a counter block is the block number, byte 1 the row number, the others 0 (R460). -/
theorem getElem_counterBlock {j k i : Nat} (hj : j < 256) (hk : k < 256) (hi : i < 16) :
    (counterBlock j k)[i] =
      if i = 0 then BitVec.ofNat 8 k else if i = 1 then BitVec.ofNat 8 j else 0 := by
  rw [counterBlock, ByteOrder.getElem_le128Bytes, shiftLeft_or_eq_ofNat j hk,
    leByte_ofNat (by omega)]
  match i with
  | 0 => exact BitVec.eq_of_toNat_eq (by simp)
  | 1 => exact congrArg (BitVec.ofNat 8) (show (j * 2 ^ 8 + k) / 2 ^ 8 = j by omega)
  | i + 2 =>
    have hp : 2 ^ 16 ≤ 2 ^ (8 * (i + 2)) := Nat.pow_le_pow_right (by decide) (by omega)
    rw [Nat.div_eq_of_lt (by omega), if_neg (by omega), if_neg (by omega)]
    rfl

/-! ### The rows -/

/-- Byte `i` of a raw row is byte `i mod 16` of its cipher block `i / 16` (R461). -/
theorem getElem_rawRow (j i : Nat) (hi : i < 64) :
    (rawRow j)[i] = (aesZero (counterBlock j (i / 16)))[i % 16] := by
  simp [rawRow]

/-- The fix-up changes bytes 0 and 63 only, both from the raw byte 63 (R461). -/
theorem getElem_fixRow (b : Vector Byte 64) (i : Nat) (hi : i < 64) :
    (fixRow b)[i] =
      if i = 0 then b[0] ^^^ (b[63] >>> 5) else if i = 63 then b[63] &&& 0x1F else b[i] := by
  simp only [fixRow, Vector.getElem_set, eq_comm (b := i)]
  by_cases h0 : i = 0
  · subst h0; rfl
  · simp only [h0, if_false]

/-- The table holds row `j` at offsets 64j to 64j + 63 (R461). -/
theorem tableByte_of_row (j i : Nat) (hi : i < 64) : tableByte (64 * j + i) = (matrixRow j)[i] := by
  have hd : (64 * j + i) / 64 = j := by omega
  have hm : (64 * j + i) % 64 = i := by omega
  simp only [tableByte, hd, hm]

/-- Settles O13: the counter blocks from the digits of the counter, the bytes of G from those of the raw row
through the fix-up. -/
theorem tableBytes : Obligations.TableBytes := by
  refine ⟨fun j k i => getElem_counterBlock j.isLt (by omega) i.isLt, fun j i => ?_⟩
  rw [tableByte_of_row _ _ i.isLt, matrixRow, getElem_fixRow, getElem_rawRow, getElem_rawRow,
    getElem_rawRow]
  rfl

end Sys2Proof.Laws.Matrix
end

section
/-! Bit sequences as polynomials over GF(2) (R14): coefficients, degree, sums, how a sequence splits at a bit
position, and the residue modulo x^n + 1. The lengths and exponents are variables here, and the columns' literal
ones are put in only afterwards: a ring law applied to literal powers makes the kernel compute with them. -/

namespace Sys2Proof.Laws.BitsPoly

open Polynomial

theorem coeff_bitsPoly (n : Nat) (f : Nat → Bool) (k : Nat) :
    (bitsPoly n f).coeff k = if k < n ∧ f k = true then 1 else 0 := by
  have hterm (i : Nat) : (if f i = true then X ^ i else 0 : (ZMod 2)[X]).coeff k =
      if k = i then (if f k = true then 1 else 0) else 0 := by
    by_cases hk : k = i
    · subst hk
      split <;> simp
    · split <;> simp [coeff_X_pow, hk]
  simp only [bitsPoly, finsetSum_coeff, hterm, Finset.sum_ite_eq, Finset.mem_range, ite_and]

theorem degree_bitsPoly_lt (n : Nat) (f : Nat → Bool) : (bitsPoly n f).degree < n :=
  (degree_lt_iff_coeff_zero _ n).2 fun k hk => by
    rw [coeff_bitsPoly, if_neg fun h => Nat.not_lt.2 hk h.1]

theorem natDegree_bitsPoly_lt {n : Nat} (hn : 0 < n) (f : Nat → Bool) :
    (bitsPoly n f).natDegree < n := by
  by_cases h0 : bitsPoly n f = 0
  · rwa [h0, natDegree_zero]
  · exact (natDegree_lt_iff_degree_lt h0).2 (degree_bitsPoly_lt n f)

theorem bitsPoly_congr {n : Nat} {f g : Nat → Bool} (h : ∀ k < n, f k = g k) :
    bitsPoly n f = bitsPoly n g :=
  Finset.sum_congr rfl fun k hk => by rw [h k (Finset.mem_range.1 hk)]

theorem bitsPoly_eq_zero {n : Nat} {f : Nat → Bool} (h : ∀ k < n, f k = false) :
    bitsPoly n f = 0 :=
  Finset.sum_eq_zero fun k hk => if_neg (by simp [h k (Finset.mem_range.1 hk)])

/-- The length does not matter past the last bit that is 1. -/
theorem bitsPoly_eq_of_zero_above {m n : Nat} {f : Nat → Bool} (hm : ∀ k, m ≤ k → f k = false)
    (hn : ∀ k, n ≤ k → f k = false) : bitsPoly m f = bitsPoly n f := by
  have below {b k : Nat} (hb : ∀ k, b ≤ k → f k = false) : (k < b ∧ f k = true) ↔ f k = true :=
    and_iff_right_of_imp fun hf => Nat.lt_of_not_le fun hle => by simp [hb k hle] at hf
  ext k
  simp only [coeff_bitsPoly, below hm, below hn]

/-- Addition over GF(2) is exclusive or of the coefficients. -/
theorem bitsPoly_xor (n : Nat) (f g : Nat → Bool) :
    bitsPoly n (fun k => f k ^^ g k) = bitsPoly n f + bitsPoly n g := by
  rw [bitsPoly, bitsPoly, bitsPoly, ← Finset.sum_add_distrib]
  refine Finset.sum_congr rfl fun k _ => ?_
  cases f k <;> cases g k <;> simp [CharTwo.add_self_eq_zero]

/-- A sequence split at bit `m`: the high part is shifted up by `m`. -/
theorem bitsPoly_add (m n : Nat) (f : Nat → Bool) :
    bitsPoly (m + n) f = bitsPoly m f + X ^ m * bitsPoly n fun k => f (m + k) := by
  simp only [bitsPoly, Finset.sum_range_add, Finset.mul_sum, mul_ite, mul_zero, pow_add]

theorem add_bitsPoly_add (p : (ZMod 2)[X]) (m n : Nat) (f : Nat → Bool) :
    p + bitsPoly (m + n) f = p + bitsPoly m f + X ^ m * bitsPoly n fun k => f (m + k) := by
  rw [bitsPoly_add, add_assoc]

/-- High bits that are all 0 may be left out. -/
theorem bitsPoly_add_of_zero {m n : Nat} {f : Nat → Bool} (h : ∀ k < n, f (m + k) = false) :
    bitsPoly (m + n) f = bitsPoly m f := by
  rw [bitsPoly_add, bitsPoly_eq_zero h, mul_zero, add_zero]

/-- Low bits that are all 0 are a factor x^m. -/
theorem bitsPoly_add_of_low_zero {m : Nat} (n : Nat) {f : Nat → Bool} (h : ∀ k < m, f k = false) :
    bitsPoly (m + n) f = X ^ m * bitsPoly n fun k => f (m + k) := by
  rw [bitsPoly_add, bitsPoly_eq_zero h, zero_add]

/-- A sequence cut off at bit `m`. -/
theorem bitsPoly_and_lt (m n : Nat) (f : Nat → Bool) :
    bitsPoly (m + n) (fun k => decide (k < m) && f k) = bitsPoly m f := by
  rw [bitsPoly_add_of_zero fun k _ => by simp]
  exact bitsPoly_congr fun k hk => by rw [decide_eq_true hk, Bool.true_and]

/-- The residue modulo x^m is the low `m` bits. -/
theorem bitsPoly_modByMonic_X_pow (m n : Nat) (f : Nat → Bool) :
    bitsPoly (m + n) f %ₘ X ^ m = bitsPoly m f :=
  (div_modByMonic_unique _ _ (monic_X_pow m)
    ⟨(bitsPoly_add m n f).symm, by simpa using degree_bitsPoly_lt m f⟩).2

/-! ### Modulo x^n + 1 -/

theorem monic_X_pow_add_one {n : Nat} (hn : n ≠ 0) : (X ^ n + 1 : (ZMod 2)[X]).Monic :=
  monic_X_pow_add_C 1 hn

/-- Modulo x^n + 1 a factor x^n may be dropped. -/
theorem modByMonic_drop_X_pow {n : Nat} (hn : n ≠ 0) (p q : (ZMod 2)[X]) (j : Nat) :
    (p + X ^ (n + j) * q) %ₘ (X ^ n + 1) = (p + X ^ j * q) %ₘ (X ^ n + 1) := by
  refine modByMonic_eq_of_dvd_sub (monic_X_pow_add_one hn) ⟨X ^ j * q, ?_⟩
  rw [add_sub_add_left_eq_sub, CharTwo.sub_eq_add]
  ring

/-- A sequence of `n` bits is its own residue. -/
theorem bitsPoly_modByMonic_self {n : Nat} (hn : n ≠ 0) (f : Nat → Bool) :
    bitsPoly n f %ₘ (X ^ n + 1) = bitsPoly n f := by
  have hdeg : (X ^ n + 1 : (ZMod 2)[X]).degree = n := degree_X_pow_add_C (Nat.pos_of_ne_zero hn) 1
  exact (modByMonic_eq_self_iff (monic_X_pow_add_one hn)).2 (hdeg ▸ degree_bitsPoly_lt n f)

/-- The residue modulo x^n + 1 of `2n` bits adds the high half to the low half. -/
theorem bitsPoly_modByMonic {n : Nat} (hn : n ≠ 0) (f : Nat → Bool) :
    bitsPoly (n + n) f %ₘ (X ^ n + 1) = bitsPoly n f + bitsPoly n fun k => f (n + k) := by
  have hsplit : bitsPoly (n + n) f = bitsPoly n f + X ^ (n + 0) * bitsPoly n fun k => f (n + k) :=
    bitsPoly_add n n f
  rw [hsplit, modByMonic_drop_X_pow hn, pow_zero, one_mul, ← bitsPoly_xor,
    bitsPoly_modByMonic_self hn]

end Sys2Proof.Laws.BitsPoly
end

section
/-! The bits and the polynomials of columns (R14) under load, mulX128, add and reduce (43_column.md R500 to R508).
An equation with `%ₘ` and literal exponents binds its variables after the colon, as the obligations do: so Lean
finds the same semiring instances for both, and need not unfold the powers to compare them. -/

namespace Sys2Proof.Laws.ColumnAlgebra

open Machine Polynomial BitsPoly

/-! ### The column window (R500, R205, R206) -/

/-- Byte `i` of limb `k` of a load. -/
theorem leByte_load (rd : MOffset → Byte) (pos : Byte) {k i : Nat} (hk : k < 10) (hi : i < 8) :
    leByte (load rd pos)[k] i =
      rd ⟨64 * pos.toNat + 8 * k + i, by have := pos.isLt; omega⟩ := by
  rw [getElem_load]
  exact leByte_le64 _ ⟨i, hi⟩

/-- Limb `8 + k` of a load is limb `k` of the next position's. -/
theorem load_overlap (rd : MOffset → Byte) {pos : Byte} (h : pos.toNat ≤ 254) {k : Nat} (hk : k < 2) :
    (load rd pos)[8 + k] = (load rd (pos + 1))[k] := by
  have hnext : (pos + 1).toNat = pos.toNat + 1 := BitVec.toNat_add_of_lt (by simp; omega)
  rw [getElem_load, getElem_load]
  refine congrArg le64 (funext fun i => congrArg rd (Fin.ext ?_))
  show 64 * pos.toNat + 8 * (8 + k) + i.val = 64 * (pos + 1).toNat + 8 * k + i.val
  omega

/-- MSTORE from offset 16,384 on is MATRIX_TAIL (R201). -/
theorem mstoreByte_tail (s : State) (i : Fin 16) :
    s.mstoreByte ⟨16384 + i.val, by omega⟩ = Config.matrixTail i := by
  rw [State.mstoreByte, dif_neg (Nat.not_lt.2 (Nat.le_add_right _ _))]
  exact congrArg _ (Fin.ext (Nat.add_sub_cancel_left _ _))

/-- Settles O20: each limb of a load is LE64 of its eight bytes of MSTORE, so the clauses compare offsets. -/
theorem columnWindow : Obligations.ColumnWindow := by
  refine ⟨fun rd pos k i => leByte_load rd pos k.isLt i.isLt,
    fun rd pos h => ⟨load_overlap rd h (k := 0) (by decide), load_overlap rd h (k := 1) (by decide)⟩,
    fun s => ⟨?_, ?_⟩⟩ <;> rw [getElem_load]
  · exact congrArg le64 (funext fun i => mstoreByte_tail s ⟨i.val, by omega⟩)
  · refine congrArg le64 (funext fun i => .trans (congrArg s.mstoreByte (Fin.ext ?_))
      (mstoreByte_tail s ⟨8 + i.val, by omega⟩))
    show 64 * (255 : Byte).toNat + 8 * 9 + i.val = 16384 + (8 + i.val)
    rw [show (255 : Byte).toNat = 255 from rfl]
    omega

/-! ### The bits of a column (R14) -/

/-- Limb `i` of a column, 0 past the tenth. -/
def limb (a : Column) (i : Nat) : Word := a.toList.getD i 0

theorem columnBit_eq (a : Column) (k : Nat) :
    columnBit a k = (limb a (k / 64)).getLsbD (k % 64) := rfl

theorem limb_eq_getElem (a : Column) {i : Nat} (hi : i < 10) : limb a i = a[i] := by
  simp [limb, hi]

theorem limb_eq_zero (a : Column) {i : Nat} (hi : 10 ≤ i) : limb a i = 0#64 := by
  simp [limb, hi]

/-- Bit `64i + j` of a column is bit `j` of limb `i`. -/
theorem columnBit_limb (a : Column) (i : Nat) {j : Nat} (hj : j < 64) :
    columnBit a (64 * i + j) = (limb a i).getLsbD j := by
  rw [columnBit_eq, show (64 * i + j) / 64 = i by omega, show (64 * i + j) % 64 = j by omega]

/-- What holds of every bit of every limb holds of every bit. -/
theorem forall_bit {P : Nat → Prop} (h : ∀ i j, j < 64 → P (64 * i + j)) (k : Nat) : P k :=
  Nat.div_add_mod k 64 ▸ h (k / 64) (k % 64) (Nat.mod_lt _ (by decide))

theorem columnBit_eq_false (a : Column) : ∀ k, 640 ≤ k → columnBit a k = false :=
  forall_bit fun i j hj hk => by
    rw [columnBit_limb a i hj, limb_eq_zero a (by omega), BitVec.getLsbD_zero]

/-- poly(a) is the polynomial of any number of its bits past which they are all 0. -/
theorem columnPoly_eq_bitsPoly {a : Column} {n : Nat} (h : ∀ k, n ≤ k → columnBit a k = false) :
    columnPoly a = bitsPoly n (columnBit a) :=
  bitsPoly_eq_of_zero_above (columnBit_eq_false a) h

/-- poly(a) modulo x^512 is the polynomial of limbs 0 to 7. -/
theorem columnPoly_modByMonic_X_pow :
    ∀ a : Column, columnPoly a %ₘ X ^ 512 = bitsPoly 512 (columnBit a) := by
  intro a
  rw [columnPoly, show 640 = 512 + 128 from rfl, bitsPoly_modByMonic_X_pow]

/-! ### Reduced columns (R14) -/

/-- A limb 7 with bits 63:61 zero has none of the column's bits 509 to 511. -/
theorem columnBit_top_of_limb {a : Column} (h : a[7].extractLsb' 61 3 = 0) {t : Nat} (ht : t < 3) :
    columnBit a (509 + t) = false := by
  have hbit := congrArg (·.getLsbD t) h
  rw [show 509 + t = 64 * 7 + (61 + t) by omega, columnBit_limb a 7 (by omega),
    limb_eq_getElem a (by decide)]
  simpa [BitVec.getLsbD_extractLsb', ht] using hbit

theorem columnBit_of_reduced {a : Column} (h : Reduced a) :
    ∀ k, 509 ≤ k → columnBit a k = false := by
  obtain ⟨h8, h9, h7⟩ := h
  intro k hk
  by_cases hk7 : k < 512
  · obtain ⟨t, rfl⟩ := Nat.exists_eq_add_of_le hk
    exact columnBit_top_of_limb h7 (by omega)
  · have hlimb : ∀ i, 8 ≤ i → limb a i = 0#64
      | 8, _ => (limb_eq_getElem a (by decide)).trans h8
      | 9, _ => (limb_eq_getElem a (by decide)).trans h9
      | i + 10, _ => limb_eq_zero a (by omega)
    rw [columnBit_eq, hlimb _ (by omega), BitVec.getLsbD_zero]

theorem columnPoly_of_reduced {a : Column} (h : Reduced a) : columnPoly a = bitsPoly 509 (columnBit a) :=
  columnPoly_eq_bitsPoly (columnBit_of_reduced h)

/-- A reduced column is what its low 512 bits say. -/
theorem columnPoly_modByMonic_of_reduced :
    ∀ {a : Column}, Reduced a → columnPoly a %ₘ X ^ 512 = columnPoly a := by
  intro a h
  rw [columnPoly_modByMonic_X_pow]
  exact (columnPoly_eq_bitsPoly fun k hk => columnBit_of_reduced h k (by omega)).symm

/-! ### mulX128 (R501, R506) -/

theorem columnBit_mulX128_low (a : Column) {k : Nat} (hk : k < 128) :
    columnBit (mulX128 a) k = false := by
  rw [columnBit_eq, limb_eq_getElem _ (by omega), getElem_mulX128, if_pos (by omega)]
  exact BitVec.getLsbD_zero

theorem columnBit_mulX128_high (a : Column) {k : Nat} (hk : k < 512) :
    columnBit (mulX128 a) (128 + k) = columnBit a k := by
  have hd : (128 + k) / 64 - 2 = k / 64 := by omega
  have hm : (128 + k) % 64 = k % 64 := by omega
  rw [columnBit_eq, limb_eq_getElem _ (by omega), getElem_mulX128, if_neg (by omega),
    columnBit_eq, limb_eq_getElem _ (by omega)]
  simp only [hd, hm]

theorem columnPoly_mulX128 :
    ∀ a : Column, columnPoly (mulX128 a) = X ^ 128 * (columnPoly a %ₘ X ^ 512) := by
  intro a
  rw [columnPoly, show 640 = 128 + 512 from rfl,
    bitsPoly_add_of_low_zero 512 fun k => columnBit_mulX128_low a,
    bitsPoly_congr fun k => columnBit_mulX128_high a, columnPoly_modByMonic_X_pow]

/-- The bits of a reduced column end at 508, those of its product at 636. -/
theorem columnBit_mulX128_of_reduced {a : Column} (h : Reduced a) {k : Nat} (hk : 637 ≤ k) :
    columnBit (mulX128 a) k = false := by
  by_cases hlt : k < 640
  · obtain ⟨j, rfl⟩ := Nat.exists_eq_add_of_le (show 128 ≤ k by omega)
    rw [columnBit_mulX128_high a (by omega), columnBit_of_reduced h j (by omega)]
  · exact columnBit_eq_false _ k (by omega)

/-- Settles O27: the column's bits move up by 128, and those of a reduced column all stay. -/
theorem mulxIsMultiplication : Obligations.MulxIsMultiplication := by
  refine fun a => ⟨columnPoly_mulX128 a, fun h => ⟨?_, ?_⟩⟩
  · rw [columnPoly_mulX128, columnPoly_modByMonic_of_reduced h]
  · rw [columnPoly_eq_bitsPoly fun k => columnBit_mulX128_of_reduced h]
    exact natDegree_bitsPoly_lt (by decide) _

/-! ### add (R502) -/

theorem columnBit_add (a w : Column) {k : Nat} (hk : k < 640) :
    columnBit (add a w) k = (columnBit a k ^^ (decide (k < 576) && columnBit w k)) := by
  simp only [columnBit_eq, limb_eq_getElem _ (show k / 64 < 10 by omega), getElem_add]
  by_cases h : k / 64 < 9
  · rw [if_pos h, BitVec.getLsbD_xor, decide_eq_true (by omega), Bool.true_and]
  · rw [if_neg h, decide_eq_false (by omega), Bool.false_and, Bool.xor_false]

/-- `add` adds limbs 0 to 8 of its second column, and limb 9 not. -/
theorem columnPoly_add (a w : Column) :
    columnPoly (add a w) = columnPoly a + bitsPoly 576 (columnBit w) := by
  rw [columnPoly, bitsPoly_congr fun k => columnBit_add a w, bitsPoly_xor,
    show 640 = 576 + 64 from rfl, bitsPoly_and_lt, columnPoly]

/-! ### reduce (R504, R505) -/

theorem getLsbD_and_mask61 (x : Word) (j : Nat) :
    (x &&& 0x1FFFFFFFFFFFFFFF).getLsbD j = (decide (j < 61) && x.getLsbD j) := by
  rw [show (0x1FFFFFFFFFFFFFFF : Word) = (BitVec.allOnes 61).setWidth 64 from rfl,
    BitVec.getLsbD_and, BitVec.getLsbD_setWidth, BitVec.getLsbD_allOnes, Bool.and_comm]
  by_cases hj : j < 61
  · rw [decide_eq_true hj, decide_eq_true (show j < 64 by omega), Bool.true_and]
  · rw [decide_eq_false hj, Bool.and_false]

/-- Whatever the column was, limbs 8 and 9 are cleared and limb 7 is masked (R507). -/
theorem reduced_reduce (a : Column) : Reduced (reduce a) := by
  refine ⟨rfl, rfl, BitVec.eq_of_getLsbD_eq fun t ht => ?_⟩
  show ((a[7] &&& 0x1FFFFFFFFFFFFFFF).extractLsb' 61 3).getLsbD t = _
  rw [BitVec.getLsbD_extractLsb', getLsbD_and_mask61, decide_eq_false (p := 61 + t < 61) (by omega)]
  simp

/-- The 64 bits of a column from bit `509 + 64i` on, as a word: what `reduce` folds into limb `i`. -/
def foldWord (a : Column) (i : Nat) : Word := (limb a (7 + i) >>> 61) ^^^ (limb a (8 + i) <<< 3)

theorem columnBit_foldWord (a : Column) (i : Nat) {j : Nat} (hj : j < 64) :
    columnBit a (509 + (64 * i + j)) = (foldWord a i).getLsbD j := by
  rw [foldWord, BitVec.getLsbD_xor, BitVec.getLsbD_ushiftRight, BitVec.getLsbD_shiftLeft]
  by_cases h3 : j < 3
  · rw [show 509 + (64 * i + j) = 64 * (7 + i) + (61 + j) by omega, columnBit_limb _ _ (by omega)]
    simp [h3]
  · rw [show 509 + (64 * i + j) = 64 * (8 + i) + (j - 3) by omega, columnBit_limb _ _ (by omega),
      BitVec.getLsbD_of_ge _ (61 + j) (by omega)]
    simp [h3, hj]

/-- Limbs 0 to 6 take the folds; from limb 3 on there is nothing to fold. -/
theorem limb_reduce (a : Column) {i : Nat} (hi : i < 7) :
    limb (reduce a) i = limb a i ^^^ foldWord a i := by
  interval_cases i <;> simp [limb, foldWord, reduce, BitVec.xor_assoc]

theorem limb_reduce_seven (a : Column) : limb (reduce a) 7 = limb a 7 &&& 0x1FFFFFFFFFFFFFFF := by
  simp [limb, reduce]

/-- Below bit 509 every bit takes the one 509 places up, if there is one; above there is nothing. -/
theorem columnBit_reduce (a : Column) : ∀ k,
    columnBit (reduce a) k = (decide (k < 509) && (columnBit a k ^^ columnBit a (509 + k))) := by
  refine forall_bit fun i j hj => ?_
  by_cases hlow : 64 * i + j < 509
  · rw [decide_eq_true hlow, Bool.true_and, columnBit_foldWord a i hj, columnBit_limb _ i hj,
      columnBit_limb _ i hj]
    by_cases hi : i < 7
    · rw [limb_reduce a hi, BitVec.getLsbD_xor]
    · obtain rfl : i = 7 := by omega
      rw [limb_reduce_seven, getLsbD_and_mask61, decide_eq_true (by omega)]
      simp [foldWord, limb_eq_zero]
  · rw [columnBit_of_reduced (reduced_reduce a) _ (by omega), decide_eq_false hlow, Bool.false_and]

/-- poly(reduce(a)) is the sum of the low 509 bits and of the bits from 509 on. -/
theorem columnPoly_reduce_eq_add (a : Column) : columnPoly (reduce a) =
    bitsPoly 509 (columnBit a) + bitsPoly 509 fun k => columnBit a (509 + k) := by
  rw [columnPoly_of_reduced (reduced_reduce a), ← bitsPoly_xor]
  exact bitsPoly_congr fun k hk => by rw [columnBit_reduce, decide_eq_true hk, Bool.true_and]

theorem columnPoly_reduce :
    ∀ a : Column, columnPoly (reduce a) = columnPoly a %ₘ (X ^ 509 + 1) := by
  intro a
  rw [columnPoly_reduce_eq_add,
    columnPoly_eq_bitsPoly (n := 509 + 509) fun k hk => columnBit_eq_false a k (by omega),
    bitsPoly_modByMonic (by decide)]

/-- Settles O26: `reduce` adds bit `509 + k` to bit `k`, which is the residue since x^509 counts as 1. -/
theorem reduceIsResidue : Obligations.ReduceIsResidue := by
  refine fun a => ⟨reduced_reduce a, columnPoly_reduce a, fun k => ?_⟩
  rw [columnBit_reduce]
  by_cases hk : k < 131
  · rw [if_pos hk, decide_eq_true (by omega), Bool.true_and]
  · rw [if_neg hk, columnBit_eq_false a (509 + k) (by omega), Bool.xor_false]
    by_cases hk509 : k < 509 <;> simp [hk509]

/-! ### V after a reduction (R507) -/

/-- What the last step of a loop makes true holds after the loop, if it takes any step. -/
theorem foldl_of_step {α β : Type} {P : β → Prop} {f : β → α → β} (h : ∀ b x, P (f b x))
    {l : List α} (hl : l ≠ []) (b : β) : P (l.foldl f b) := by
  rw [← List.dropLast_append_getLast hl, List.foldl_append]
  exact h _ _

/-- The loop of a pass ends in a column step (R521). -/
theorem reduced_mixColumnsVW (rd : MOffset → Byte) (pb : Vector Byte 112) :
    Reduced (mixColumnsVW rd pb).1 := by
  rw [mixColumnsVW]
  refine foldl_of_step (P := fun vw : Column × Column => Reduced vw.1) (fun vw p => ?_) ?_ _
  · rw [mixStep, stepWith]
    exact reduced_reduce _
  · exact List.ne_nil_of_length_pos (by rw [List.length_drop, Vector.length_toList]; decide)

theorem reduced_mix (rd : MOffset → Byte) (hs : HashState) (chunk : Chunk) :
    Reduced (mix rd hs chunk).v := by
  have h := reduced_mixColumnsVW rd (positionBuffer hs chunk)
  simpa only [mix] using h

theorem reduced_mixPad (rd : MOffset → Byte) (hs : HashState) (p : List Byte) :
    Reduced (mixPad rd hs p).v := by
  rw [mixPad]
  split
  · exact reduced_mix _ _ _
  · exact reduced_mix _ _ _

/-- Settles O28: each of the four commands computes V by a `reduce` or by a mixing pass, which ends in one. -/
theorem reductionInvariant : Obligations.ReductionInvariant := by
  refine ⟨reduced_reduce, fun s t i hi h => ?_⟩
  show Reduced t.v
  rcases hi with rfl | ⟨pos, rfl⟩ | rfl | ⟨r, rfl⟩
  · obtain rfl := Host.Outcome.next.inj h
    exact reduced_reduce s.v
  · obtain rfl := Host.Outcome.next.inj h
    exact reduced_reduce (add (mulX128 s.v) (load s.mstoreByte pos))
  · obtain rfl := Host.Outcome.next.inj h
    simpa only [complete_v] using reduced_mix s.mstoreByte s.hs s.chunk
  · rw [exec, execFinal] at h
    split at h
    · obtain rfl := Host.Outcome.next.inj h
      simpa only [complete_v] using reduced_mixPad s.mstoreByte s.hs _
    · cases h

/-! ### The column step (R503, R508) -/

/-- Limb 8 of the load is added at x^512, limb 9 not at all. -/
theorem columnPoly_add_load (rd : MOffset → Byte) (a : Column) (p : Byte) :
    columnPoly (add a (load rd p)) = columnPoly a + rowPoly rd p + X ^ 512 * extPoly rd p := by
  rw [columnPoly_add, show 576 = 512 + 64 from rfl, add_bitsPoly_add, rowPoly, extPoly]

theorem columnPoly_stepWith : ∀ (rd : MOffset → Byte) (v : Column) (p : Byte),
    columnPoly (stepWith v (load rd p)) =
      (X ^ 128 * (columnPoly v %ₘ X ^ 512) + rowPoly rd p + X ^ 3 * extPoly rd p) %ₘ
        (X ^ 509 + 1) := by
  intro rd v p
  rw [stepWith, columnPoly_reduce, columnPoly_add_load, columnPoly_mulX128,
    show 512 = 509 + 3 from rfl, modByMonic_drop_X_pow (by decide)]

/-! ### The rows of a matrix that is there (R462(a)) -/

/-- Bits 63:61 of a limb are bits 7:5 of its byte 7. -/
theorem extractLsb'_leByte_seven (x : Word) :
    (leByte x 7).extractLsb' 5 3 = x.extractLsb' 61 3 := by
  refine BitVec.eq_of_getLsbD_eq fun t ht => ?_
  rw [BitVec.getLsbD_extractLsb', BitVec.getLsbD_extractLsb', getLsbD_leByte,
    decide_eq_true (p := 5 + t < 8) (by omega), Bool.true_and,
    show 8 * 7 + (5 + t) = 61 + t by omega]

/-- With MREADY = 1 the table's offsets of MSTORE read G (R117). -/
theorem mstoreByte_of_ready {s : State} (hs : StateInv s) (hm : s.mready = true) {a : Nat}
    (ha : a < 16384) : s.mstoreByte ⟨a, by omega⟩ = tableByte a := by
  rw [State.mstoreByte, dif_pos ha, hs.table hm a ha, Option.getD_some]

/-- Byte 63 of a row of G is masked to its low five bits (R461). -/
theorem tableByte_last (j : Nat) : tableByte (64 * j + 63) = (rawRow j)[63] &&& 0x1F := by
  rw [Matrix.tableByte_of_row j 63 (by decide), matrixRow, Matrix.getElem_fixRow]
  rfl

theorem load_limb7_of_ready {s : State} (hs : StateInv s) (hm : s.mready = true) (p : Byte) :
    (load s.mstoreByte p)[7].extractLsb' 61 3 = 0 := by
  have hp := p.isLt
  have hlast : leByte (load s.mstoreByte p)[7] 7 = (rawRow p.toNat)[63] &&& 0x1F := by
    rw [leByte_load s.mstoreByte p (by decide) (by decide), mstoreByte_of_ready hs hm (by omega)]
    exact tableByte_last p.toNat
  rw [← extractLsb'_leByte_seven, hlast, BitVec.extractLsb'_and]
  exact BitVec.and_zero

theorem natDegree_rowPoly_of_ready {s : State} (hs : StateInv s) (hm : s.mready = true) (p : Byte) :
    (rowPoly s.mstoreByte p).natDegree < 509 := by
  have hrow : rowPoly s.mstoreByte p = bitsPoly 509 (columnBit (load s.mstoreByte p)) := by
    rw [rowPoly, show 512 = 509 + 3 from rfl,
      bitsPoly_add_of_zero fun t => columnBit_top_of_limb (load_limb7_of_ready hs hm p)]
  exact hrow ▸ natDegree_bitsPoly_lt (by decide) _

/-- Settles O29: the sum by the polynomials of `mulX128` and `add`, the step by x^512 ≡ x^3, the row's degree by
the mask of byte 63 of G's rows. -/
theorem stepAlgebra : Obligations.StepAlgebra := by
  refine ⟨fun rd v p => ⟨?_, ?_, columnPoly_stepWith rd v p, fun hv => ?_, rfl,
    natDegree_bitsPoly_lt (by decide) _⟩, fun s p hs hm => natDegree_rowPoly_of_ready hs hm p⟩
  · rw [columnPoly_add_load, columnPoly_mulX128]
  · rw [getElem_add, if_neg (by decide), getElem_mulX128, if_neg (by decide)]
  · rw [columnPoly_stepWith, columnPoly_modByMonic_of_reduced hv]

end Sys2Proof.Laws.ColumnAlgebra
end

section
/-! The mixing pass as a Horner sum (44_mixer.md R521, R523). The sums are worked out in the ring modulo x^n + 1
with `n` a variable; the equations with literal exponents bind their variables as those of ColumnAlgebra do. -/

namespace Sys2Proof.Laws.MixClosedForm

open Machine Polynomial BitsPoly ColumnAlgebra

/-! ### Residues modulo x^n + 1 -/

/-- Equal residues are equal elements of the ring modulo x^n + 1. -/
theorem modByMonic_eq_iff_mk_eq {n : Nat} (hn : n ≠ 0) {f g : (ZMod 2)[X]} :
    f %ₘ (X ^ n + 1) = g %ₘ (X ^ n + 1) ↔
      AdjoinRoot.mk (X ^ n + 1) f = AdjoinRoot.mk (X ^ n + 1) g :=
  (AdjoinRoot.mk_leftInverse (monic_X_pow_add_one hn)).injective.eq_iff
    (a := AdjoinRoot.mk _ f) (b := AdjoinRoot.mk _ g)

theorem mk_modByMonic {n : Nat} (hn : n ≠ 0) (f : (ZMod 2)[X]) :
    AdjoinRoot.mk (X ^ n + 1) (f %ₘ (X ^ n + 1)) = AdjoinRoot.mk (X ^ n + 1) f :=
  AdjoinRoot.mk_leftInverse (monic_X_pow_add_one hn) (AdjoinRoot.mk _ f)

/-- x^n counts as 1. -/
theorem root_pow_eq_one (n : Nat) : AdjoinRoot.root (X ^ n + 1 : (ZMod 2)[X]) ^ n = 1 := by
  rw [← AdjoinRoot.mk_X, ← map_pow, ← map_one (AdjoinRoot.mk _), AdjoinRoot.mk_eq_mk,
    CharTwo.sub_eq_add]

/-- The exponents of a weighted sum count modulo `n` only. -/
theorem sum_X_pow_modByMonic_exponent {n : Nat} (hn : n ≠ 0) {ι : Type} [Fintype ι] (e : ι → Nat)
    (c : ι → (ZMod 2)[X]) :
    (∑ i, X ^ e i * c i) %ₘ (X ^ n + 1) = (∑ i, X ^ (e i % n) * c i) %ₘ (X ^ n + 1) := by
  rw [modByMonic_eq_iff_mk_eq hn]
  simp only [map_sum, map_mul, map_pow, AdjoinRoot.mk_X]
  exact Finset.sum_congr rfl fun i _ => by rw [pow_eq_pow_mod (e i) (root_pow_eq_one n)]

/-- `add_assoc` at the instances a sum of polynomials has, so that it rewrites one with literal powers as it
stands (the kernel computes with the powers to compare other instances). -/
theorem add_assoc_poly (p q r : (ZMod 2)[X]) : p + q + r = p + (q + r) := add_assoc p q r

/-! ### Horner's rule -/

/-- One more turn of Horner's rule: every weight goes up by x^m, and the new term has weight 1. -/
theorem horner_sum_succ {m k : Nat} (c : Fin (k + 2) → (ZMod 2)[X]) :
    ∑ i, X ^ (m * (k + 1 - i.val)) * c i =
      X ^ m * (∑ i : Fin (k + 1), X ^ (m * (k - i.val)) * c i.castSucc) + c (Fin.last _) := by
  have hweight (i : Fin (k + 1)) : m * (k + 1 - i.val) = m + m * (k - i.val) := by
    rw [Nat.succ_sub (Nat.le_of_lt_succ i.isLt), Nat.mul_succ, Nat.add_comm]
  simp only [Fin.sum_univ_castSucc (n := k + 1), Fin.val_castSucc, Fin.val_last, hweight, pow_add,
    mul_assoc, Finset.mul_sum, Nat.sub_self, Nat.mul_zero, pow_zero, one_mul]

/-- A loop that multiplies by x^m and adds a term, modulo x^n + 1, computes the Horner sum of its terms. -/
theorem foldl_modByMonic_eq_horner {α β : Type} {n m : Nat} (hn : n ≠ 0) (poly : β → (ZMod 2)[X])
    (f : β → α → β) (b : β) {k : Nat} (l : Fin k → α) (c : Fin (k + 1) → (ZMod 2)[X])
    (hinit : poly b = c 0)
    (hstep : ∀ b i, poly (f b (l i)) = (X ^ m * poly b + c i.succ) %ₘ (X ^ n + 1)) :
    poly ((List.ofFn l).foldl f b) %ₘ (X ^ n + 1) =
      (∑ i, X ^ (m * (k - i.val)) * c i) %ₘ (X ^ n + 1) := by
  induction k with
  | zero => simp [hinit]
  | succ k ih =>
    have hk := ih (fun i => l i.castSucc) (fun i => c i.castSucc) hinit fun b i => hstep b i.castSucc
    rw [modByMonic_eq_iff_mk_eq hn] at hk ⊢
    rw [List.ofFn_succ', List.concat_eq_append, List.foldl_append, List.foldl_cons, List.foldl_nil,
      hstep, mk_modByMonic hn, map_add, map_mul, hk, horner_sum_succ, map_add, map_mul, Fin.succ_last]

/-! ### The loop of a pass (R521) -/

/-- What is left of a vector without its first element. -/
theorem drop_one_toList {α : Type} {n : Nat} (v : Vector α (n + 1)) :
    v.toList.drop 1 = List.ofFn fun i : Fin n => v[i.val + 1] :=
  List.ext_getElem (by simp) fun i _ _ => by simp

/-- The terms after the first are those that R508 gives a column step. The position's byte is a variable here and
below, so that the kernel need not compare two products to find the same byte in them. -/
theorem passTerm_of_ne_zero : ∀ (rd : MOffset → Byte) (pb : Vector Byte 112) (i : Fin 112) (p : Byte),
    i.val ≠ 0 → pb[i] = p → passTerm rd pb i = rowPoly rd p + X ^ 3 * extPoly rd p := by
  intro rd pb i p hi hp
  rw [passTerm, if_neg hi]
  exact congrArg₂ HAdd.hAdd (congrArg _ hp) (congrArg _ (congrArg _ hp))

/-- The polynomial of limbs 0 to 7 of V: all that the next turn's `mulX128` keeps of it (R501). -/
noncomputable def lowPoly (vw : Column × Column) : (ZMod 2)[X] := bitsPoly 512 (columnBit vw.1)

/-- Of a reduced column it keeps everything (R506). -/
theorem lowPoly_of_reduced {vw : Column × Column} (h : Reduced vw.1) : lowPoly vw = columnPoly vw.1 :=
  (columnPoly_eq_bitsPoly fun k hk => columnBit_of_reduced h k (by omega)).symm

/-- Before the loop, limb 8 of the first load does not count (R506). -/
theorem lowPoly_load (rd : MOffset → Byte) (pb : Vector Byte 112) (w : Column) :
    lowPoly (load rd pb[0], w) = passTerm rd pb 0 := rfl

/-- One turn of the loop is one turn of Horner's rule. -/
theorem lowPoly_mixStep : ∀ (rd : MOffset → Byte) (pb : Vector Byte 112) (i : Fin 112) (p : Byte)
    (vw : Column × Column), i.val ≠ 0 → pb[i] = p → lowPoly (mixStep rd vw p) =
      (X ^ 128 * lowPoly vw + passTerm rd pb i) %ₘ (X ^ 509 + 1) := by
  intro rd pb i p vw hi hp
  have hred : Reduced (mixStep rd vw p).1 := reduced_reduce _
  rw [lowPoly_of_reduced hred, mixStep, columnPoly_stepWith, columnPoly_modByMonic_X_pow, add_assoc_poly,
    passTerm_of_ne_zero rd pb i p hi hp, lowPoly]

/-- The loop computes, modulo x^509 + 1, the Horner sum of the pass's terms. -/
theorem lowPoly_mixColumnsVW : ∀ (rd : MOffset → Byte) (pb : Vector Byte 112),
    lowPoly (mixColumnsVW rd pb) %ₘ (X ^ 509 + 1) =
      (∑ i : Fin 112, X ^ (128 * (111 - i.val)) * passTerm rd pb i) %ₘ (X ^ 509 + 1) := by
  intro rd pb
  have hstep (vw : Column × Column) (i : Fin 111) :=
    lowPoly_mixStep rd pb i.succ pb[i.val + 1] vw (Nat.succ_ne_zero _) rfl
  rw [mixColumnsVW, drop_one_toList,
    foldl_modByMonic_eq_horner (by decide) lowPoly (mixStep rd) _ _ (passTerm rd pb)
      (lowPoly_load rd pb _) hstep]

/-! ### The new active half of HS (R521, R523) -/

/-- Written back, the bits of limbs 0 to 7 are those of the active half. -/
theorem activePoly_writeBack (hs : HashState) (v : Column) :
    activePoly (writeBack hs v) = bitsPoly 512 (columnBit v) := by
  refine bitsPoly_congr fun k hk => ?_
  have hbyte : (writeBack hs v).toList.getD (k / 8) 0 = leByte v[k / 64] (k / 8 % 8) := by
    have h := getElem_writeBack hs v (k / 8) (by omega)
    rw [dif_pos (by omega)] at h
    simpa [Nat.div_div_eq_div_mul, show k / 8 < 128 by omega] using h
  rw [hbyte, getLsbD_leByte, columnBit_eq, limb_eq_getElem v (by omega),
    show 8 * (k / 8 % 8) + k % 8 = k % 64 by omega, decide_eq_true (by omega), Bool.true_and]

theorem activePoly_mix_eq_lowPoly (rd : MOffset → Byte) (hs : HashState) (chunk : Chunk) :
    activePoly (mix rd hs chunk).hs = lowPoly (mixColumnsVW rd (positionBuffer hs chunk)) := by
  rw [mix, activePoly_writeBack, lowPoly]

/-- After the loop V is reduced, so that bits 0 to 508 are all of it (R507). -/
theorem lowPoly_mixColumnsVW_eq_bitsPoly (rd : MOffset → Byte) (pb : Vector Byte 112) :
    lowPoly (mixColumnsVW rd pb) = bitsPoly 509 (columnBit (mixColumnsVW rd pb).1) :=
  have hred := reduced_mixColumnsVW rd pb
  (lowPoly_of_reduced hred).trans (columnPoly_of_reduced hred)

/-- The new active half is its own residue, and its residue is the Horner sum's. -/
theorem activePoly_mix : ∀ (rd : MOffset → Byte) (hs : HashState) (chunk : Chunk),
    activePoly (mix rd hs chunk).hs =
      (∑ i : Fin 112, X ^ (128 * (111 - i.val)) * passTerm rd (positionBuffer hs chunk) i) %ₘ
        (X ^ 509 + 1) := by
  intro rd hs chunk
  rw [← lowPoly_mixColumnsVW, activePoly_mix_eq_lowPoly, lowPoly_mixColumnsVW_eq_bitsPoly,
    bitsPoly_modByMonic_self (by decide)]

/-- Settles O31: each column step is a turn of Horner's rule modulo x^509 + 1, where x^509 counts as 1. -/
theorem mixClosedForm : Obligations.MixClosedForm := by
  refine ⟨fun rd hs chunk => ⟨activePoly_mix rd hs chunk, ?_, ?_⟩, by decide,
    fun rd pb pb' i h => by rw [passTerm, passTerm, h]⟩
  · rw [activePoly_mix_eq_lowPoly, lowPoly_mixColumnsVW_eq_bitsPoly]
    exact natDegree_bitsPoly_lt (by decide) _
  · rw [activePoly_mix, sum_X_pow_modByMonic_exponent (by decide)]

end Sys2Proof.Laws.MixClosedForm
end

section
/-! The pad and its passes (45_padding.md R540, R541, R542). -/

namespace Sys2Proof.Laws.Padding

open Machine

/-! ### The pad's length (R540) -/

theorem padLength_of_le {r : Nat} (h : r ≤ 40) : padLength r = 48 := if_pos h

theorem padLength_of_gt {r : Nat} (h : 40 < r) : padLength r = 96 := if_neg (Nat.not_le_of_gt h)

/-- The remainder never overlaps the length field (R541). -/
theorem add_eight_le_padLength {r : Nat} (h : r ≤ 47) : r + 8 ≤ padLength r := by
  rw [padLength]
  split <;> omega

/-! ### The pad's bytes (R541) -/

section
variable {rem : List Byte} (len : Word)

theorem getElem?_pad_remainder {i : Nat} (hi : i < rem.length) : (pad rem len)[i]? = rem[i]? := by
  rw [pad, List.append_assoc, List.getElem?_append_left hi]

variable (hrem : rem.length ≤ 47)
include hrem

/-- The remainder and the zeros end where the length field begins. -/
theorem length_remainder_zeros :
    (rem ++ List.replicate (padLength rem.length - 8 - rem.length) (0 : Byte)).length =
      padLength rem.length - 8 := by
  have := add_eight_le_padLength hrem
  rw [List.length_append, List.length_replicate]
  omega

theorem length_pad : (pad rem len).length = padLength rem.length := by
  have := add_eight_le_padLength hrem
  rw [pad, List.length_append, length_remainder_zeros hrem, length_le64Bytes]
  omega

theorem getElem?_pad_zero {i : Nat} (hi : rem.length ≤ i) (hn : i < padLength rem.length - 8) :
    (pad rem len)[i]? = some 0 := by
  have hzeros : i - rem.length < padLength rem.length - 8 - rem.length := by omega
  rw [pad, List.getElem?_append_left ((length_remainder_zeros hrem).symm ▸ hn),
    List.getElem?_append_right hi, List.getElem?_replicate_of_lt hzeros]

theorem getElem?_pad_lengthField {k : Nat} (hk : k < 8) :
    (pad rem len)[padLength rem.length - 8 + k]? = some (leByte len k) := by
  have hfield := length_remainder_zeros hrem
  rw [pad, List.getElem?_append_right (hfield.trans_le (Nat.le_add_right _ _)), hfield,
    Nat.add_sub_cancel_left, getElem?_le64Bytes len k hk]

end

/-! ### The passes (R542) -/

theorem mixPad_of_length_ne {p : List Byte} (h : p.length ≠ 96) (rd : MOffset → Byte)
    (hs : HashState) : mixPad rd hs p = mix rd hs (chunkAt p 0) := if_neg h

theorem mixPad_of_length_eq {p : List Byte} (h : p.length = 96) (rd : MOffset → Byte)
    (hs : HashState) :
    mixPad rd hs p = mix rd (mix rd hs (chunkAt p 0)).hs (chunkAt p 1) := if_pos h

/-- Settles O33: the remainder ends before the length field, so each byte lies in one of the pad's three parts,
and the remainder's length decides MixPad's branch through the pad's. -/
theorem padAndItsPasses : Obligations.PadAndItsPasses := by
  intro rem len hrem
  have hlen := length_pad len hrem
  refine ⟨⟨hlen, fun i => getElem?_pad_remainder len,
    fun i => getElem?_pad_zero len hrem, fun k => getElem?_pad_lengthField len hrem,
    Nat.le_sub_of_add_le (add_eight_le_padLength hrem)⟩, fun rd hs => ⟨fun h40 => ?_, fun h41 => ?_⟩⟩
  · rw [padLength_of_le h40] at hlen
    exact mixPad_of_length_ne (by rw [hlen]; decide) rd hs
  · rw [padLength_of_gt h41] at hlen
    exact mixPad_of_length_eq hlen rd hs

end Sys2Proof.Laws.Padding
end

section
/-! The output filter is SHA-256: its constants, schedule, rounds and byte order, and the padding that the markers
are (46_output_filter.md R561 to R565, R571, R572). -/

namespace Sys2Proof.Laws.OutputFilter

open Machine

/-! ### The constants (R561, R562) -/

/-- The first 32 bits after the point of the `n`-th root of the `t`-th prime. -/
def rootFraction (n t : Nat) : Nat :=
  Nat.nthRoot n (shaPrimes.getD t 0 * 2 ^ (32 * n)) % 2 ^ 32

/-- A number that is the fraction of a root is so by the root that `Nat.nthRoot` finds. -/
theorem exists_root_of_eq_rootFraction {n t c : Nat} (hn : n ≠ 0) (hc : c = rootFraction n t) :
    ∃ r : Nat, r ^ n ≤ shaPrimes.getD t 0 * 2 ^ (32 * n) ∧
      shaPrimes.getD t 0 * 2 ^ (32 * n) < (r + 1) ^ n ∧ c = r % 2 ^ 32 :=
  ⟨_, Nat.pow_nthRoot_le (.inl hn), Nat.lt_pow_nthRoot_add_one hn _, hc⟩

theorem compressInit_eq_rootFraction :
    ∀ t : Fin 8, compressInit[t].toNat = rootFraction 2 t.val := by
  decide +kernel

theorem compressK_eq_rootFraction :
    ∀ t : Fin 64, (compressK.getD t.val 0).toNat = rootFraction 3 t.val := by
  decide +kernel

/-! ### The functions on words (R13, R563) -/

theorem rotateRight_eq_rotr32 (x : Word32) {n : Nat} (hn : n < 32) : x.rotateRight n = rotr32 x n := by
  rw [BitVec.rotateRight_def, Nat.mod_eq_of_lt hn, rotr32]

theorem bigSigma0_eq (x : Word32) : bigSigma0 x = rotr32 x 2 ^^^ rotr32 x 13 ^^^ rotr32 x 22 := by
  simp only [bigSigma0, rotateRight_eq_rotr32, Nat.reduceLT]

theorem bigSigma1_eq (x : Word32) : bigSigma1 x = rotr32 x 6 ^^^ rotr32 x 11 ^^^ rotr32 x 25 := by
  simp only [bigSigma1, rotateRight_eq_rotr32, Nat.reduceLT]

theorem smallSigma0_eq (x : Word32) : smallSigma0 x = rotr32 x 7 ^^^ rotr32 x 18 ^^^ (x >>> 3) := by
  simp only [smallSigma0, rotateRight_eq_rotr32, Nat.reduceLT]

theorem smallSigma1_eq (x : Word32) : smallSigma1 x = rotr32 x 17 ^^^ rotr32 x 19 ^^^ (x >>> 10) := by
  simp only [smallSigma1, rotateRight_eq_rotr32, Nat.reduceLT]

/-! ### The schedule (R564) -/

theorem length_scheduleExtend (n : Nat) (ws : List Word32) :
    (scheduleExtend n ws).length = ws.length + n := by
  induction n generalizing ws with
  | zero => rfl
  | succ n ih => rw [scheduleExtend, ih, List.length_cons, Nat.succ_add_eq_add_succ]

/-- The last word put in front is computed from all the words before it. -/
theorem scheduleExtend_succ (n : Nat) (ws : List Word32) :
    scheduleExtend (n + 1) ws = scheduleNext (scheduleExtend n ws) :: scheduleExtend n ws := by
  induction n generalizing ws with
  | zero => rfl
  | succ n ih => rw [scheduleExtend, ih, scheduleExtend]

/-- Without the `n` newest words there stand the words before them. -/
theorem drop_scheduleExtend (n m : Nat) (ws : List Word32) :
    (scheduleExtend (m + n) ws).drop n = scheduleExtend m ws := by
  induction n with
  | zero => rfl
  | succ n ih => rw [← Nat.add_assoc, scheduleExtend_succ, List.drop_succ_cons, ih]

/-- W15 to W0, newest first: the words of the block. -/
def blockWords (b : Vector Byte 64) : List Word32 :=
  ((List.finRange 16).map fun t => be32 fun i => b[4 * t.val + i.val]).reverse

theorem schedule_eq_reverse (b : Vector Byte 64) :
    schedule b = (scheduleExtend 48 (blockWords b)).reverse := rfl

theorem length_blockWords (b : Vector Byte 64) : (blockWords b).length = 16 := by
  simp [blockWords]

theorem getD_blockWords (b : Vector Byte 64) (t : Fin 16) :
    (blockWords b).getD (15 - t.val) 0 = be32 fun i => b[4 * t.val + i.val] := by
  rw [blockWords, List.getD_reverse _ (by simp; omega)]
  simp [show 15 - (15 - t.val) = t.val by omega]

theorem length_schedule (b : Vector Byte 64) : (schedule b).length = 64 := by
  rw [schedule_eq_reverse, List.length_reverse, length_scheduleExtend, length_blockWords]

/-- Word `i` of the schedule stands at place `j` of the words up to W(m + 15), newest first. -/
theorem getD_schedule (b : Vector Byte 64) {i j m : Nat} (hm : m ≤ 48) (hij : i + j = m + 15) :
    (schedule b).getD i 0 = (scheduleExtend m (blockWords b)).getD j 0 := by
  have hlen := length_scheduleExtend 48 (blockWords b)
  rw [length_blockWords] at hlen
  rw [← drop_scheduleExtend (48 - m) m, Nat.add_sub_cancel' hm, schedule_eq_reverse,
    List.getD_reverse _ (by omega), List.getD_eq_getElem?_getD, List.getD_eq_getElem?_getD,
    List.getElem?_drop]
  congr 2
  omega

/-- The first 16 words are those of the block. -/
theorem getD_schedule_block (b : Vector Byte 64) (t : Fin 16) :
    (schedule b).getD t.val 0 = be32 fun i => b[4 * t.val + i.val] :=
  (getD_schedule b (Nat.zero_le _) (Nat.add_sub_cancel' (Nat.le_of_lt_succ t.isLt))).trans
    (getD_blockWords b t)

theorem getD_schedule_next (b : Vector Byte 64) {t : Nat} (ht : t < 48) :
    (schedule b).getD (t + 16) 0 =
      smallSigma1 ((schedule b).getD (t + 14) 0) + (schedule b).getD (t + 9) 0 +
        smallSigma0 ((schedule b).getD (t + 1) 0) + (schedule b).getD t 0 := by
  have hle := Nat.le_of_lt ht
  rw [getD_schedule b (j := 0) ht (by omega), scheduleExtend_succ, List.getD_cons_zero, scheduleNext,
    ← getD_schedule b hle (i := t + 14) rfl, ← getD_schedule b hle (i := t + 9) rfl,
    ← getD_schedule b hle (i := t + 1) (by omega), ← getD_schedule b hle (i := t) rfl]

/-! ### The rounds (R565) -/

theorem length_compressK : compressK.length = 64 := rfl

/-- Two lists of one length, zipped, are their entries taken by number. -/
theorem zip_eq_map_range {α β : Type} {l : List α} {m : List β} {n : Nat} (hl : l.length = n)
    (hm : m.length = n) (a : α) (b : β) :
    l.zip m = (List.range n).map fun t => (l.getD t a, m.getD t b) :=
  List.ext_getElem (by simp [hl, hm]) fun t ht _ => by
    rw [List.length_zip, hl, hm, Nat.min_self] at ht
    simp [hl, hm, ht]

/-- The rounds take K and the schedule's words by number. -/
theorem getElem_compress (h : Digest8) (b : Vector Byte 64) (i : Fin 8) :
    (compress h b)[i] = h[i] + ((List.range 64).foldl
      (fun x t => compressRound x (compressK.getD t 0, (schedule b).getD t 0)) h)[i] := by
  rw [compress, zip_eq_map_range length_compressK (length_schedule b) 0 0, List.foldl_map]
  simp

/-! ### The digest's bytes and the padding (R571, R572) -/

theorem getElem_digestBytes (h : Digest8) (t : Fin 8) (k : Fin 4) :
    (digestBytes h)[4 * t.val + k.val] = beByte h[t] k.val := by
  have hdiv : (4 * t.val + k.val) / 4 = t.val := by omega
  have hmod : (4 * t.val + k.val) % 4 = k.val := by omega
  simp [digestBytes, hdiv, hmod]

/-- SHA-256's padding is zero but for its first byte and, in the bit length 512, its byte 62. -/
theorem getElem_shaPadding :
    ∀ i (hi : i < 64), shaPadding[i] = if i = 0 then 0x80 else if i = 62 then 0x02 else 0 := by
  decide

theorem hsHalf_one_eq_shaPadding {hs : HashState} (h64 : hs[64] = 0x80) (h126 : hs[126] = 0x02)
    (hzero : ∀ i : Fin 128, 64 ≤ i.val → i.val ≠ 64 → i.val ≠ 126 → hs[i] = 0) :
    hsHalf hs 1 = shaPadding := by
  refine Vector.ext fun i hi => ?_
  have hhalf : (hsHalf hs 1)[i] = hs[64 + i] := by simp [hsHalf]
  rw [hhalf, getElem_shaPadding i hi]
  split_ifs with h0 h62
  · subst h0
    exact h64
  · subst h62
    exact h126
  · have hne64 : 64 + i ≠ 64 := by omega
    have hne126 : 64 + i ≠ 126 := by omega
    exact hzero ⟨64 + i, by omega⟩ (Nat.le_add_right _ _) hne64 hne126

/-- Settles O36: the constants by the roots that `Nat.nthRoot` finds, the schedule by the places of its words in the
list that grows at the front, the rounds by zipping K with the schedule, the padding byte by byte. -/
theorem filterIsSha256 : Obligations.FilterIsSha256 := by
  refine ⟨fun t => exists_root_of_eq_rootFraction (by decide) (compressInit_eq_rootFraction t),
    fun t => exists_root_of_eq_rootFraction (by decide) (compressK_eq_rootFraction t),
    fun b => ⟨length_schedule b, getD_schedule_block b, fun t => ?_⟩, fun h b i => ?_,
    getElem_digestBytes, fun hs h64 h126 hzero => ?_⟩
  · simp only [getD_schedule_next b t.isLt, smallSigma0_eq, smallSigma1_eq]
  · -- The model's round and the stated one differ only in how they write the functions of R563.
    simp only [getElem_compress, compressRound, bigSigma0_eq, bigSigma1_eq, shaCh, shaMaj]
  · have hpad := hsHalf_one_eq_shaPadding h64 h126 hzero
    exact ⟨hpad, by rw [filter, hpad]; rfl⟩

end Sys2Proof.Laws.OutputFilter
end

section
/-! Errors, their record and the issue procedure (60_exceptions.md R603 to R605, R610, R612). -/

namespace Sys2Proof.Laws.Exceptions

open Machine

/-! ### Recording and clearing (R610, R612) -/

/-- The first error is recorded (R610). -/
theorem raiseError_of_clear {s : State} (h : s.err = false) (c : ErrorCode) (info : Word) :
    raiseError c info s =
      { s with err := true, errcode := errorNumber c, errinfo := info, runFaulted := true } := by
  rw [raiseError, h]
  rfl

/-- A later error only sets ERROVF (R610). -/
theorem raiseError_of_recorded {s : State} (h : s.err = true) (c : ErrorCode) (info : Word) :
    raiseError c info s = { s with errovf := true, runFaulted := true } := if_pos h

/-- Settles O38: the two branches of `raiseError`. -/
theorem raiseRecords : Obligations.RaiseRecords := by
  refine ⟨⟨rfl, rfl, rfl, rfl, rfl, rfl⟩, fun s c info => ⟨fun h => ?_, fun h => ?_⟩⟩
  · rw [raiseError_of_clear h]
  · rw [raiseError_of_recorded h]

/-- W1C of CDONE: the bit written decides (R119). -/
theorem ite_clearDone (b : Bool) (s : State) :
    (if b then clearDone s else s) = { s with cdone := s.cdone && !b } := by
  cases b <;> simp [clearDone]

/-- W1C of ERR takes the record with it (R120, R612). -/
theorem ite_clearErr (b : Bool) (s : State) :
    (if b then clearErr s else s) = { s with
      err := s.err && !b
      errcode := if b then 0 else s.errcode
      errinfo := if b then 0 else s.errinfo } := by
  cases b <;> simp [clearErr]

/-- W1C of ERROVF (R121, R612). -/
theorem ite_clearOvf (b : Bool) (s : State) :
    (if b then clearOvf s else s) = { s with errovf := s.errovf && !b } := by
  cases b <;> simp [clearOvf]

/-- Settles O48: STATUS takes its write in every state, and each W1C bit acts on fields of its own. -/
theorem statusWrite : Obligations.StatusWrite := by
  intro s x
  rw [Registers.writeReg_of_unguarded rfl, performWrite, writeStatus, ite_clearDone, ite_clearErr,
    ite_clearOvf]

/-! ### The issue procedure (R603, R604) -/

section
variable {s : State} {x : Word}

theorem issueCmd_of_busy (hb : s.busy = true) : issueCmd x s = raiseError .busyWrite 0x18 s := if_pos hb

variable (hb : s.busy = false)
include hb

/-- A CMD write on an idle block that records an error is discarded (R604). -/
theorem issueCmd_of_err (he : s.err = true) : issueCmd x s = { s with errovf := true } := by
  simp [issueCmd, hb, he]

variable (he : s.err = false)
include he

theorem issueCmd_of_illegal {why : Illegal} (hd : decode x = .illegal why) :
    issueCmd x s = raiseError .illegalCmd x s := by
  simp [issueCmd, hb, he, hd]

variable {i : Instr} (hd : decode x = .command i)
include hd

theorem issueCmd_of_refused {c : ErrorCode} (hc : issueCheck i s = some c) :
    issueCmd x s = raiseError c x s := by
  simp [issueCmd, hb, he, hd, hc]

theorem issueCmd_of_passed (hc : issueCheck i s = none) : issueCmd x s = accept x s := by
  simp [issueCmd, hb, he, hd, hc]

end

/-- Settles O39: on an idle block the CMD write is IssueCmd, which discards it. -/
theorem discardWhileError : Obligations.DiscardWhileError :=
  fun _ x hb he => (Registers.writeReg_of_idle hb .cmd x).trans (issueCmd_of_err hb he)

/-! ### The conditions of the checks, command by command (R304, R306, R126) -/

theorem wellFormed_eq_false_iff (i : Instr) : i.WellFormed = false ↔
    (∃ r, i = .final r ∧ 47 < r.toNat) ∨ ∃ idx, i = .mread idx ∧ 2049 < idx.toNat := by
  cases i <;> simp [Instr.WellFormed]

theorem needsMatrix_iff (i : Instr) : needsMatrix i = true ↔
    i = .absorb ∨ (∃ r, i = .final r) ∨ (∃ idx, i = .mread idx) ∨
      (∃ p, i = .colLoadV p) ∨ (∃ p, i = .colLoadW p) ∨ ∃ p, i = .colStep p := by
  cases i <;> simp [needsMatrix]

theorem needsContext_iff (i : Instr) : needsContext i = true ↔ i = .absorb ∨ ∃ r, i = .final r := by
  cases i <;> simp [needsContext]

/-- A command that adds nothing to LEN never passes its end: LEN itself is a 64-bit word. -/
theorem overflow_iff (i : Instr) (len : Word) : len.toNat + lengthGrowth i > 2 ^ 64 - 1 ↔
    (i = .absorb ∧ len.toNat + 48 > 2 ^ 64 - 1) ∨
      ∃ r, i = .final r ∧ len.toNat + r.toNat > 2 ^ 64 - 1 := by
  have hlen : ¬ len.toNat > 2 ^ 64 - 1 := Nat.not_lt_of_le (Nat.le_pred_of_lt len.isLt)
  cases i
  case absorb | final => simp [lengthGrowth]
  all_goals simpa [lengthGrowth] using hlen

/-! ### The order of the checks (R603, R605) -/

section
variable {i : Instr} {s : State}

theorem issueCheck_of_illFormed (ho : i.WellFormed = false) : issueCheck i s = some .badOperand :=
  if_pos ho

variable (ho : ¬ i.WellFormed = false)
include ho

theorem issueCheck_of_noMatrix (hm : needsMatrix i = true ∧ s.mready = false) :
    issueCheck i s = some .matrixNotReady := by
  rw [issueCheck, if_neg ho, if_pos hm]

variable (hm : ¬ (needsMatrix i = true ∧ s.mready = false))
include hm

theorem issueCheck_of_noContext (hp : needsContext i = true ∧ s.phase ≠ .absorb) :
    issueCheck i s = some .sequence := by
  rw [issueCheck, if_neg ho, if_neg hm, if_pos hp]

variable (hp : ¬ (needsContext i = true ∧ s.phase ≠ .absorb))
include hp

theorem issueCheck_of_overflow (hl : s.len.toNat + lengthGrowth i > 2 ^ 64 - 1) :
    issueCheck i s = some .lengthOverflow := by
  rw [issueCheck, if_neg ho, if_neg hm, if_neg hp, if_pos hl]

theorem issueCheck_of_all_passed (hl : ¬ s.len.toNat + lengthGrowth i > 2 ^ 64 - 1) :
    issueCheck i s = none := by
  rw [issueCheck, if_neg ho, if_neg hm, if_neg hp, if_neg hl]

end

/-- Settles O40: the stated conditions are those of `issueCheck`, which makes its checks in the same order. -/
theorem issueCheckOrder : Obligations.IssueCheckOrder := by
  refine ⟨fun s x => issueCmd_of_busy, fun s x => issueCmd_of_err, fun s x hb he =>
    ⟨fun why => issueCmd_of_illegal hb he, fun i hd => ?_⟩⟩
  simp only [← wellFormed_eq_false_iff, ← needsMatrix_iff, ← needsContext_iff, ← overflow_iff,
    and_comm (a := s.mready = false), and_comm (a := s.phase ≠ .absorb)]
  have refused {c : ErrorCode} : issueCheck i s = some c → issueCmd x s = raiseError c x s :=
    issueCmd_of_refused hb he hd
  refine ⟨fun ho => refused (issueCheck_of_illFormed ho),
    fun ho hm => refused (issueCheck_of_noMatrix ho hm),
    fun ho hm hp => refused (issueCheck_of_noContext ho hm hp),
    fun ho hm hp hl => refused (issueCheck_of_overflow ho hm hp hl), fun ho hm hp hl => ?_⟩
  rw [issueCmd_of_passed hb he hd (issueCheck_of_all_passed ho hm hp hl)]
  rfl

end Sys2Proof.Laws.Exceptions
end

section
/-! Hardware reset and MATRIX_AT_RESET (R170, R700). -/

namespace Sys2Proof.Laws.Reset

open Machine

theorem resetMready_of_preloaded (h : Config.matrixAtReset = .preloaded) : resetMready = true :=
  decide_eq_true h

theorem resetMready_of_empty (h : Config.matrixAtReset = .empty) : resetMready = false := by
  rw [resetMready, h]
  rfl

theorem resetMstore_of_preloaded (h : Config.matrixAtReset = .preloaded) :
    resetMstore = Mem.writeTable [] := by
  rw [resetMstore, h]

/-- In a PRELOADED build a hardware reset leaves G in MSTORE, and no draw shows. -/
theorem mstoreByte_of_preloaded {s : State} (hs : s.mstore = resetMstore)
    (h : Config.matrixAtReset = .preloaded) {a : MOffset} (ha : a.val < 16384) :
    s.mstoreByte a = tableByte a.val := by
  rw [State.mstoreByte, dif_pos ha, hs, resetMstore_of_preloaded h, Mem.byte?_writeTable, if_pos ha,
    Option.getD_some]

/-- Settles O50: the fields are those of `State.reset` in both states, and MATRIX_AT_RESET decides the
two that hold the matrix. -/
theorem hardResetValues : Obligations.HardResetValues := by
  intro s
  rw [List.forall_mem_cons, List.forall_mem_singleton]
  constructor
  all_goals
    exact ⟨rfl, rfl, rfl, rfl, rfl, rfl, rfl, rfl, rfl, rfl, rfl, rfl, rfl, rfl, rfl, rfl, rfl, rfl,
      rfl, rfl, fun h => ⟨resetMready_of_preloaded h, fun _ => mstoreByte_of_preloaded rfl h⟩,
      resetMready_of_empty⟩

end Sys2Proof.Laws.Reset
end

section
/-! The words of the commands (30_encoding.md R300 to R306): the decoder on the encoder's words, the encoder on the
words that decode, and the rows of the opcode table. -/

namespace Sys2Proof.Laws.Encoding

open Machine

/-! ### Each format of R302 -/

theorem opcOf_encodeN (opc : Byte) : opcOf (encodeN opc) = opc := opcOf_wordOfFields _ _ _ _

theorem opcOf_encodeB (opc imm8 : Byte) : opcOf (encodeB opc imm8) = opc := opcOf_wordOfFields _ _ _ _

theorem opcOf_encodeH (opc : Byte) (imm16 : Half) : opcOf (encodeH opc imm16) = opc :=
  opcOf_wordOfFields _ _ _ _

theorem decodeN_encodeN (opc : Byte) (i : Instr) : decodeN (encodeN opc) i = .command i :=
  if_pos ((high56_eq_zero _).2
    ⟨rsvOf_wordOfFields _ _ _ _, imm16Of_wordOfFields _ _ _ _, imm8Of_wordOfFields _ _ _ _⟩)

theorem decodeB_encodeB (opc imm8 : Byte) (mk : Byte → Instr) :
    decodeB (encodeB opc imm8) mk = .command (mk imm8) := by
  have hz : (encodeB opc imm8).extractLsb' 16 48 = 0 :=
    (high48_eq_zero _).2 ⟨rsvOf_wordOfFields _ _ _ _, imm16Of_wordOfFields _ _ _ _⟩
  rw [decodeB, if_pos hz, encodeB, imm8Of_wordOfFields]

theorem decodeH_encodeH (opc : Byte) (imm16 : Half) (mk : Half → Instr) :
    decodeH (encodeH opc imm16) mk = .command (mk imm16) := by
  have hz : rsvOf (encodeH opc imm16) = 0 ∧ imm8Of (encodeH opc imm16) = 0 :=
    ⟨rsvOf_wordOfFields _ _ _ _, imm8Of_wordOfFields _ _ _ _⟩
  rw [decodeH, if_pos hz, encodeH, imm16Of_wordOfFields]

theorem eq_wordOfFields {w : Word} {rsv : BitVec 32} {imm16 : Half} {imm8 opc : Byte}
    (hrsv : rsvOf w = rsv) (himm16 : imm16Of w = imm16) (himm8 : imm8Of w = imm8) (hopc : opcOf w = opc) :
    w = wordOfFields rsv imm16 imm8 opc := by
  rw [← hrsv, ← himm16, ← himm8, ← hopc, wordOfFields_of]

/-- A word that format N takes is its OPC alone. -/
theorem eq_encodeN_of_decodeN {w : Word} {i j : Instr} (h : decodeN w i = .command j) :
    j = i ∧ w = encodeN (opcOf w) := by
  unfold decodeN at h
  split at h
  · obtain ⟨hrsv, himm16, himm8⟩ := (high56_eq_zero w).1 ‹_›
    exact ⟨(Decoded.command.inj h).symm, eq_wordOfFields hrsv himm16 himm8 rfl⟩
  · cases h

/-- A word that format B takes is its OPC and its IMM8. -/
theorem eq_encodeB_of_decodeB {w : Word} {mk : Byte → Instr} {j : Instr}
    (h : decodeB w mk = .command j) : j = mk (imm8Of w) ∧ w = encodeB (opcOf w) (imm8Of w) := by
  unfold decodeB at h
  split at h
  · obtain ⟨hrsv, himm16⟩ := (high48_eq_zero w).1 ‹_›
    exact ⟨(Decoded.command.inj h).symm, eq_wordOfFields hrsv himm16 rfl rfl⟩
  · cases h

/-- A word that format H takes is its OPC and its IMM16. -/
theorem eq_encodeH_of_decodeH {w : Word} {mk : Half → Instr} {j : Instr}
    (h : decodeH w mk = .command j) : j = mk (imm16Of w) ∧ w = encodeH (opcOf w) (imm16Of w) := by
  unfold decodeH at h
  split at h
  · obtain ⟨hrsv, himm8⟩ := ‹rsvOf w = 0 ∧ imm8Of w = 0›
    exact ⟨(Decoded.command.inj h).symm, eq_wordOfFields hrsv rfl himm8 rfl⟩
  · cases h

/-! ### The decoder and the encoder -/

theorem opcOf_eq_of_toNat {w : Word} {n : Nat} (h : (opcOf w).toNat = n) :
    opcOf w = BitVec.ofNat 8 n := by
  rw [← h, BitVec.ofNat_toNat, BitVec.setWidth_eq]

/-- Settles O1: the sample words, decoded. -/
theorem sampleWordsDecode : Obligations.SampleWordsDecode := by
  unfold Obligations.SampleWordsDecode
  decide

/-- Settles O2: the OPC of a command's word selects its row, whose format gives the operand back. -/
theorem decodeOfEncode : Obligations.DecodeOfEncode := by
  intro i
  cases i
  case final | colLoadV | colLoadW | colStep =>
    rw [encode, decode, opcOf_encodeB]
    exact decodeB_encodeB _ _ _
  case mread =>
    rw [encode, decode, opcOf_encodeH]
    exact decodeH_encodeH _ _ _
  all_goals
    rw [encode, decode, opcOf_encodeN]
    exact decodeN_encodeN _ _

/-- Settles O3: the row's format fixes every bit outside OPC and the operand. -/
theorem encodeOfDecode : Obligations.EncodeOfDecode := by
  intro x i h
  unfold decode at h
  split at h
  -- No row.
  case h_14 => cases h
  -- FINAL, COL_LOAD_V, COL_LOAD_W and COL_STEP: format B.
  case h_4 hopc | h_8 hopc | h_9 hopc | h_13 hopc =>
    obtain ⟨rfl, hx⟩ := eq_encodeB_of_decodeB h
    rw [opcOf_eq_of_toNat hopc] at hx
    exact hx.symm
  -- MREAD: format H.
  case h_6 hopc =>
    obtain ⟨rfl, hx⟩ := eq_encodeH_of_decodeH h
    rw [opcOf_eq_of_toNat hopc] at hx
    exact hx.symm
  -- The others: format N.
  all_goals
    rename_i hopc
    obtain ⟨rfl, hx⟩ := eq_encodeN_of_decodeN h
    rw [opcOf_eq_of_toNat hopc] at hx
    exact hx.symm

/-! ### The opcode table -/

theorem wordOfFields_and (a a' : BitVec 32) (b b' : Half) (c c' d d' : Byte) :
    wordOfFields a b c d &&& wordOfFields a' b' c' d' =
      wordOfFields (a &&& a') (b &&& b') (c &&& c') (d &&& d') := by
  simp only [wordOfFields, ← BitVec.and_append]

theorem wordOfFields_inj {a a' : BitVec 32} {b b' : Half} {c c' d d' : Byte}
    (h : wordOfFields a b c d = wordOfFields a' b' c' d') : a = a' ∧ b = b' ∧ c = c' ∧ d = d' :=
  ⟨by simpa only [rsvOf_wordOfFields] using congrArg rsvOf h,
    by simpa only [imm16Of_wordOfFields] using congrArg imm16Of h,
    by simpa only [imm8Of_wordOfFields] using congrArg imm8Of h,
    by simpa only [opcOf_wordOfFields] using congrArg opcOf h⟩

theorem maskB_eq_fields : maskB = wordOfFields (.allOnes 32) (.allOnes 16) 0#8 (.allOnes 8) := by decide

theorem maskH_eq_fields : maskH = wordOfFields (.allOnes 32) 0#16 (.allOnes 8) (.allOnes 8) := by decide

theorem eq_encodeN_of_maskN {x : Word} {opc : Byte} (h : x &&& maskN = encodeN opc) :
    x = encodeN opc := by
  rwa [show maskN = .allOnes 64 from rfl, BitVec.and_allOnes] at h

/-- Mask B leaves IMM8 open. -/
theorem eq_encodeB_of_maskB {x : Word} {opc : Byte} (h : x &&& maskB = encodeN opc) :
    x = encodeB opc (imm8Of x) := by
  rw [← wordOfFields_of x, maskB_eq_fields, wordOfFields_and, encodeN] at h
  obtain ⟨hrsv, himm16, -, hopc⟩ := wordOfFields_inj h
  rw [BitVec.and_allOnes] at hrsv himm16 hopc
  rw [encodeB, ← hrsv, ← himm16, ← hopc, wordOfFields_of]

/-- Mask H leaves IMM16 open. -/
theorem eq_encodeH_of_maskH {x : Word} {opc : Byte} (h : x &&& maskH = encodeN opc) :
    x = encodeH opc (imm16Of x) := by
  rw [← wordOfFields_of x, maskH_eq_fields, wordOfFields_and, encodeN] at h
  obtain ⟨hrsv, -, himm8, hopc⟩ := wordOfFields_inj h
  rw [BitVec.and_allOnes] at hrsv himm8 hopc
  rw [encodeH, ← hrsv, ← himm8, ← hopc, wordOfFields_of]

/-- A word that matches a row is the word of a command. -/
theorem exists_encode_of_row {x : Word} {row : String × Word × Word} (hrow : row ∈ opcodeTable)
    (h : x &&& row.2.2 = row.2.1) : ∃ i, x = encode i := by
  simp only [opcodeTable, List.mem_cons, List.not_mem_nil, or_false] at hrow
  rcases hrow with rfl | rfl | rfl | rfl | rfl | rfl | rfl | rfl | rfl | rfl | rfl | rfl | rfl
  · exact ⟨.nop, eq_encodeN_of_maskN h⟩
  · exact ⟨.init, eq_encodeN_of_maskN h⟩
  · exact ⟨.absorb, eq_encodeN_of_maskN h⟩
  · exact ⟨.final _, eq_encodeB_of_maskB h⟩
  · exact ⟨.genMatrix, eq_encodeN_of_maskN h⟩
  · exact ⟨.mread _, eq_encodeH_of_maskH h⟩
  · exact ⟨.aesEnc, eq_encodeN_of_maskN h⟩
  · exact ⟨.colLoadV _, eq_encodeB_of_maskB h⟩
  · exact ⟨.colLoadW _, eq_encodeB_of_maskB h⟩
  · exact ⟨.colMulx, eq_encodeN_of_maskN h⟩
  · exact ⟨.colAdd, eq_encodeN_of_maskN h⟩
  · exact ⟨.colReduce, eq_encodeN_of_maskN h⟩
  · exact ⟨.colStep _, eq_encodeB_of_maskB h⟩

/-- The word of a command matches the row of its mnemonic. -/
theorem exists_row (i : Instr) : ∃ row ∈ opcodeTable, encode i &&& row.2.2 = row.2.1 := by
  have hrow : Enc.Statement i := by
    cases i with
    | nop => exact Enc.nop
    | init => exact Enc.init
    | absorb => exact Enc.absorb
    | final r => exact Enc.final r
    | genMatrix => exact Enc.genMatrix
    | mread idx => exact Enc.mread idx
    | aesEnc => exact Enc.aesEnc
    | colLoadV pos => exact Enc.colLoadV pos
    | colLoadW pos => exact Enc.colLoadW pos
    | colMulx => exact Enc.colMulx
    | colAdd => exact Enc.colAdd
    | colReduce => exact Enc.colReduce
    | colStep pos => exact Enc.colStep pos
  obtain ⟨row, hmem, -, hmatch⟩ := hrow
  exact ⟨row, hmem, hmatch⟩

/-- Settles O4: the words that match a row are the words of commands, and those are the words that decode. -/
theorem illegalIffNoRow : Obligations.IllegalIffNoRow := by
  refine fun x => ⟨fun ⟨why, hill⟩ row hrow hmatch => ?_, fun hno => ?_⟩
  · obtain ⟨i, rfl⟩ := exists_encode_of_row hrow hmatch
    rw [decodeOfEncode i] at hill
    cases hill
  · cases hd : decode x with
    | illegal why => exact ⟨why, rfl⟩
    | command i =>
      obtain ⟨row, hrow, hmatch⟩ := exists_row i
      rw [encodeOfDecode x i hd] at hmatch
      exact absurd hmatch (hno row hrow)

end Sys2Proof.Laws.Encoding
end

section
/-! What each command does in every state (40_control.md, 41_cipher.md R430, 42_matrix.md R465, 43_column.md R510 to
R515), and that each with a legal operand completes (R600). -/

namespace Sys2Proof.Laws.Commands

open Machine

/-! ### NOP, INIT, AES_ENC and the loads -/

/-- Settles O9: NOP is the completion alone. -/
theorem nopResult : Obligations.NopResult := fun _ => rfl

/-- Settles O10: the four fields that INIT writes, and the completion. -/
theorem initResult : Obligations.InitResult := fun _ => rfl

/-- Settles O11: CT, and the completion. -/
theorem aesEncResult : Obligations.AesEncResult := fun _ => rfl

/-- Settles O21: each load writes its column, and completes. -/
theorem colLoadResults : Obligations.ColLoadResults := ⟨fun _ _ => rfl, fun _ _ => rfl⟩

/-! ### The operands that have a range (R306) -/

theorem exec_mread_of_le {idx : Half} (h : idx.toNat ≤ 2049) (s : State) :
    exec (.mread idx) s = .next (complete { s with mdata := mstoreWord s.mstoreByte idx.toNat h }) :=
  dif_pos h

theorem exec_mread_of_gt {idx : Half} (h : 2049 < idx.toNat) (s : State) :
    exec (.mread idx) s = .fault .operandOutOfRange := dif_neg (Nat.not_le_of_gt h)

theorem exec_final_of_gt {r : Byte} (h : 47 < r.toNat) (s : State) :
    exec (.final r) s = .fault .operandOutOfRange := if_neg (Nat.not_le_of_gt h)

theorem exec_final_of_le {r : Byte} (h : r.toNat ≤ 47) (s : State) : ∃ t, exec (.final r) s = .next t :=
  ⟨_, if_pos h⟩

/-- Settles O17: the word that MREAD computes for a legal index. -/
theorem mreadResult : Obligations.MreadResult := fun s _ h => exec_mread_of_le h s

/-- Settles O19: the two bounds of `exec`, and the first check of IssueCmd on the word's own command. -/
theorem outOfRangeNeverRuns : Obligations.OutOfRangeNeverRuns :=
  ⟨fun s _ h => exec_final_of_gt h s, fun s _ h => exec_mread_of_gt h s, fun _ i ho hb he =>
    Exceptions.issueCmd_of_refused hb he (Encoding.decodeOfEncode i)
      (Exceptions.issueCheck_of_illFormed ho)⟩

/-- Settles O54: only FINAL and MREAD ask anything of their operand. -/
theorem everyCommandCompletes : Obligations.EveryCommandCompletes := by
  intro i s h
  cases i
  case final r => exact exec_final_of_le (by simpa [Instr.WellFormed] using h) s
  case mread idx => exact ⟨_, exec_mread_of_le (by simpa [Instr.WellFormed] using h) s⟩
  all_goals exact ⟨_, rfl⟩

/-- Settles O53: the fields named are those of the completion's frame. -/
theorem everyCompletion : Obligations.EveryCompletion := by
  intro i s t h
  rw [Completion.exec_next_frame h]
  exact ⟨rfl, rfl, rfl, rfl, rfl, rfl, rfl, rfl, rfl, rfl, rfl, rfl, rfl, rfl, rfl, rfl, rfl, rfl⟩

/-! ### COL_MULX (R501, R512) -/

/-- `k` shifts move every limb up `2k` places. -/
theorem getElem_iterate_mulX128 (a : Column) (k i : Nat) (hi : i < 10) :
    (mulX128^[k] a)[i] = if i < 2 * k then 0 else a[i - 2 * k] := by
  induction k generalizing i with
  | zero => rfl
  | succ k ih =>
    rw [Function.iterate_succ_apply', getElem_mulX128]
    by_cases h2 : i < 2
    · rw [if_pos h2, if_pos (by omega)]
    · rw [if_neg h2, ih]
      simp only [show i - 2 < 2 * k ↔ i < 2 * (k + 1) by omega,
        show i - 2 - 2 * k = i - 2 * (k + 1) by omega]

/-- Settles O22: limb by limb, once and five times. -/
theorem colMulxResult : Obligations.ColMulxResult := by
  refine ⟨fun s => ⟨_, rfl, rfl, ?_, ?_, fun i => ?_⟩, fun a => Vector.ext fun i hi => ?_⟩
  · exact getElem_mulX128 s.v 0 (by decide)
  · exact getElem_mulX128 s.v 1 (by decide)
  · exact (getElem_mulX128 s.v (i.val + 2) (by omega)).trans (if_neg (by omega))
  · rw [Vector.getElem_replicate]
    exact (getElem_iterate_mulX128 a 5 i hi).trans (if_pos hi)

/-! ### COL_ADD, COL_REDUCE, COL_STEP (R502 to R504, R513 to R515) -/

theorem add_add_cancel (a w : Column) : add (add a w) w = a := by
  refine Vector.ext fun i hi => ?_
  rw [getElem_add, getElem_add]
  by_cases h : i < 9
  · rw [if_pos h, if_pos h, BitVec.xor_assoc, BitVec.xor_self, BitVec.xor_zero]
  · rw [if_neg h, if_neg h]

/-- Settles O23: limbs 0 to 8 are sums, limb 9 is kept, and a sum with itself is 0. -/
theorem colAddResult : Obligations.ColAddResult := by
  refine ⟨fun s => ⟨_, rfl, rfl, fun i => ?_, ?_⟩, add_add_cancel⟩
  · exact (getElem_add s.v s.w i.val (by omega)).trans (if_pos i.isLt)
  · exact getElem_add s.v s.w 9 (by decide)

/-- Settles O24: `reduce` is the statement list. -/
theorem colReduceResult : Obligations.ColReduceResult := by
  intro s
  rw [exec, execColReduce, Machine.Laws.reduce_eq_statements]
  rfl

/-- Settles O25: the four commands in order compute W and V, and their completions make one. -/
theorem colStepResult : Obligations.ColStepResult := ⟨fun _ _ => rfl, fun _ _ => rfl⟩

end Sys2Proof.Laws.Commands
end

section
/-! MSTORE under GEN_MATRIX and MREAD (42_matrix.md R462 to R465, 20_memory.md R225). -/

namespace Sys2Proof.Laws.Matrix

open Machine

/-- Settles O14: the fix-up masks byte 63, and byte 63 is the top of limb 7. -/
theorem tableRowsReduced : Obligations.TableRowsReduced := by
  refine ⟨fun j => ?_, fun s p hs hm => ColumnAlgebra.load_limb7_of_ready hs hm p⟩
  rw [ColumnAlgebra.tableByte_last, BitVec.toNat_and]
  exact Nat.and_le_right

/-! ### GEN_MATRIX -/

/-- What a byte of MSTORE reads after GEN_MATRIX: G, and past it MATRIX_TAIL as before. -/
theorem mstoreByte_of_writeTable {s t : State} (h : t.mstore = s.mstore.writeTable) (a : MOffset) :
    t.mstoreByte a = if a.val < 16384 then tableByte a.val else s.mstoreByte a := by
  by_cases ha : a.val < 16384
  · rw [State.mstoreByte, dif_pos ha, if_pos ha, h, Mem.byte?_writeTable, if_pos ha, Option.getD_some]
  · rw [State.mstoreByte, dif_neg ha, if_neg ha, State.mstoreByte, dif_neg ha]

/-- GEN_MATRIX writes MSTORE and MREADY, and completes (R463). -/
theorem exec_genMatrix (s : State) : ∃ t, exec .genMatrix s = .next t ∧
    t = { s with mstore := t.mstore, mready := true, busy := false, pending := none, cdone := true } ∧
    t.mstore = s.mstore.writeTable := by
  simp [exec, execGenMatrix, complete]

/-- Settles O15: the table's writes, and the frame of the completion. -/
theorem genMatrixResult : Obligations.GenMatrixResult := by
  intro s
  obtain ⟨t, ht, hframe, hm⟩ := exec_genMatrix s
  refine ⟨t, ht, hframe, mstoreByte_of_writeTable hm, fun a ha => ?_, fun hwf => ?_⟩
  · rw [hm, Mem.byte?_writeTable, if_pos ha]
  · exact hm ▸ Mem.wf_writeTable hwf

/-- Writing G over G changes no cell. -/
theorem writeTable_eq_self {m : Mem} (hm : m.wf) (h : ∀ a, a < 16384 → m.byte? a = some (tableByte a)) :
    m.writeTable = m := by
  refine Mem.ext_of_wf (Mem.wf_writeTable hm) hm fun a => ?_
  rw [Mem.byte?_writeTable]
  split
  · exact (h a ‹_›).symm
  · rfl

/-- Settles O16: with MREADY = 1 MSTORE holds G already, in its canonical form. -/
theorem genMatrixRepeats : Obligations.GenMatrixRepeats := by
  intro s hs hm
  rw [exec, execGenMatrix, writeTable_eq_self hs.memory (hs.table hm), complete, ← hm]

/-! ### MREAD -/

theorem mdata_of_mread {s t : State} {idx : Half} (h : idx.toNat ≤ 2049)
    (ht : exec (.mread idx) s = .next t) :
    t.mdata = le64 fun k => s.mstoreByte ⟨8 * idx.toNat + k.val, by omega⟩ := by
  rw [Commands.exec_mread_of_le h] at ht
  rw [← Host.Outcome.next.inj ht]
  rfl

/-- Settles O18: the eight bytes lie in the table or in one half of the tail. -/
theorem mreadOfReadyMatrix : Obligations.MreadOfReadyMatrix := by
  intro s t idx hs hm ht
  refine ⟨fun hidx => ?_, fun hidx => ?_, fun hidx => ?_⟩ <;>
    rw [mdata_of_mread (by omega) ht] <;> refine congrArg le64 (funext fun k => ?_)
  · exact ColumnAlgebra.mstoreByte_of_ready hs hm (by omega)
  · refine .trans (congrArg s.mstoreByte (Fin.ext ?_)) (ColumnAlgebra.mstoreByte_tail s ⟨k.val, by omega⟩)
    show 8 * idx.toNat + k.val = 16384 + k.val
    omega
  · refine .trans (congrArg s.mstoreByte (Fin.ext ?_))
      (ColumnAlgebra.mstoreByte_tail s ⟨8 + k.val, by omega⟩)
    show 8 * idx.toNat + k.val = 16384 + (8 + k.val)
    omega

end Sys2Proof.Laws.Matrix
end

section
/-! A mixing pass and ABSORB (44_mixer.md R520 to R526): what the loop computes, and on which bytes of MSTORE it
depends (R524). -/

namespace Sys2Proof.Laws.Mixer

open Machine

/-! ### The loop of a pass (R521) -/

/-- The columns V of the loop are column steps on the loads of the positions. -/
theorem foldl_mixStep_fst (rd : MOffset → Byte) (l : List Byte) (vw : Column × Column) :
    (l.foldl (mixStep rd) vw).1 = l.foldl (fun v p => stepWith v (load rd p)) vw.1 := by
  induction l generalizing vw with
  | nil => rfl
  | cons p l ih => exact ih _

/-- W after the loop is the load of the last position. -/
theorem foldl_mixStep_snd (rd : MOffset → Byte) {l : List Byte} (hl : l ≠ []) (vw : Column × Column) :
    (l.foldl (mixStep rd) vw).2 = load rd (l.getLast hl) := by
  conv => lhs; rw [← List.dropLast_append_getLast hl, List.foldl_append]
  rfl

/-- The position buffer is the active half of HS and then the chunk (R520). -/
theorem toList_positionBuffer (hs : HashState) (chunk : Chunk) :
    (positionBuffer hs chunk).toList = hs.toList.take 64 ++ chunk.toList := by
  refine List.ext_getElem (by simp) fun i h1 h2 => ?_
  have hi : i < 112 := by simpa using h1
  rw [Vector.getElem_toList, getElem_positionBuffer]
  by_cases h : i < 64
  · rw [dif_pos h, List.getElem_append_left (by simpa using h)]
    simp
  · rw [dif_neg h, List.getElem_append_right (by simpa using h)]
    simp

/-- Positions 1 to 111, those of the loop's turns. -/
def laterPositions (hs : HashState) (chunk : Chunk) : List Byte := (positionBuffer hs chunk).toList.drop 1

theorem laterPositions_ne_nil (hs : HashState) (chunk : Chunk) : laterPositions hs chunk ≠ [] :=
  List.ne_nil_of_length_pos (by simp [laterPositions])

/-- The last position is the chunk's last byte. -/
theorem getLast_laterPositions (hs : HashState) (chunk : Chunk) :
    (laterPositions hs chunk).getLast (laterPositions_ne_nil hs chunk) = chunk[47] := by
  rw [List.getLast_eq_getElem]
  simp [laterPositions, getElem_positionBuffer]

/-- V after a pass (R521). -/
theorem mix_v (rd : MOffset → Byte) (hs : HashState) (chunk : Chunk) :
    (mix rd hs chunk).v =
      (laterPositions hs chunk).foldl (fun v p => stepWith v (load rd p)) (load rd hs[0]) := by
  simp only [mix, mixColumnsVW, foldl_mixStep_fst, laterPositions]
  rw [getElem_positionBuffer, dif_pos (by decide)]

/-- W after a pass (R521). -/
theorem mix_w (rd : MOffset → Byte) (hs : HashState) (chunk : Chunk) :
    (mix rd hs chunk).w = load rd chunk[47] := by
  simp only [mix, mixColumnsVW]
  exact (foldl_mixStep_snd rd (laterPositions_ne_nil hs chunk) _).trans
    (congrArg (load rd) (getLast_laterPositions hs chunk))

/-- HS after a pass is V written back (R521). -/
theorem mix_hs (rd : MOffset → Byte) (hs : HashState) (chunk : Chunk) :
    (mix rd hs chunk).hs = writeBack hs (mix rd hs chunk).v := by
  simp only [mix]

/-- Written back, HSk is limb `k`. -/
theorem arrayWord_writeBack (hs : HashState) (v : Column) (k : Nat) (hk : k < 8) :
    arrayWord (m := 16) (writeBack hs v) ⟨k, by omega⟩ = v[k] := by
  rw [← le64_leByte v[k], arrayWord]
  refine congrArg le64 (funext fun i => ?_)
  have hi := i.isLt
  show (writeBack hs v)[8 * k + i.val] = _
  rw [getElem_writeBack, dif_pos (by omega)]
  simp only [show (8 * k + i.val) / 8 = k by omega, show (8 * k + i.val) % 8 = i.val by omega]

theorem mixState_ext {m m' : MixState} (hhs : m.hs = m'.hs) (hv : m.v = m'.v) (hw : m.w = m'.w) :
    m = m' := by
  cases m
  cases m'
  exact (MixState.mk.injEq ..).mpr ⟨hhs, hv, hw⟩

/-! ### ABSORB (R525, R526) -/

/-- ABSORB is a pass on CHUNK; LEN grows by 48 (R525). -/
theorem exec_absorb (s : State) : ∃ t, exec .absorb s = .next t ∧
    t = { s with
      hs := t.hs, v := t.v, w := t.w, len := s.len + 48
      busy := false, pending := none, cdone := true } ∧
    t.hs = (mix s.mstoreByte s.hs s.chunk).hs ∧ t.v = (mix s.mstoreByte s.hs s.chunk).v ∧
    t.w = (mix s.mstoreByte s.hs s.chunk).w := by
  simp [exec, execAbsorb, complete]

/-- Settles O30: the pass's V, W and HS by the lemmas on `mix`, the rest by the frame. -/
theorem absorbResult : Obligations.AbsorbResult := by
  intro s
  obtain ⟨t, ht, hframe, hhs, hv, hw⟩ := exec_absorb s
  refine ⟨t, ht, hframe, fun k => ?_, fun i hi => ?_, ?_, ?_⟩
  · rw [regValue, hhs, mix_hs, hv]
    exact arrayWord_writeBack s.hs _ k.val k.isLt
  · rw [hhs]
    exact mix_hs_upper _ _ _ i.val i.isLt hi
  · rw [hw, mix_w]
  · rw [hv, mix_v, laterPositions, toList_positionBuffer]
    rfl

/-! ### What a pass depends on (R524, R207) -/

/-- Two columns with equal limbs 0 to n-1. -/
def AgreeBelow (n : Nat) (a b : Column) : Prop := ∀ (i : Nat) (h : i < 10), i < n → a[i] = b[i]

/-- A step reads limbs 0 to 7 of V and limbs 0 to 8 of the load (R501, R502). -/
theorem stepWith_congr {v v' w w' : Column} (hv : AgreeBelow 8 v v') (hw : AgreeBelow 9 w w') :
    stepWith v w = stepWith v' w' := by
  refine congrArg reduce (Vector.ext fun i hi => ?_)
  have hmul : (mulX128 v)[i] = (mulX128 v')[i] := by
    rw [getElem_mulX128, getElem_mulX128]
    split
    · rfl
    · exact hv (i - 2) (by omega) (by omega)
  rw [getElem_add, getElem_add, hmul]
  split
  · rw [hw i hi ‹_›]
  · rfl

/-- So do the steps of the loop, if it takes any: the first makes V equal, the others keep it. -/
theorem foldl_stepWith_congr {f g : Byte → Column} {l : List Byte} (hl : l ≠ [])
    (hload : ∀ p ∈ l, AgreeBelow 9 (f p) (g p)) {v v' : Column} (hv : AgreeBelow 8 v v') :
    l.foldl (fun v p => stepWith v (f p)) v = l.foldl (fun v p => stepWith v (g p)) v' := by
  cases l with
  | nil => exact absurd rfl hl
  | cons p l =>
    rw [List.foldl_cons, List.foldl_cons, stepWith_congr hv (hload p (by simp))]
    exact List.foldl_ext _ _ _ fun u q hq =>
      stepWith_congr (fun _ _ _ => rfl) (hload q (List.mem_cons_of_mem _ hq))

/-- Limbs whose bytes the two readers agree on. -/
theorem agreeBelow_load {rd rd' : MOffset → Byte} {bound n : Nat} {p : Byte}
    (hrd : ∀ a : MOffset, a.val < bound → rd a = rd' a) (hn : 64 * p.toNat + 8 * n ≤ bound) :
    AgreeBelow n (load rd p) (load rd' p) := by
  intro i hi hin
  rw [getElem_load, getElem_load]
  refine congrArg le64 (funext fun k => hrd _ ?_)
  have hk := k.isLt
  show 64 * p.toNat + 8 * i + k.val < bound
  omega

/-- Only the window of position 255 reaches the tail (R206). -/
theorem toNat_le_of_ne_255 {p : Byte} (h : p ≠ 255) : p.toNat ≤ 254 := by
  have hlt := p.isLt
  have hne : p.toNat ≠ 255 := fun hp => h (BitVec.eq_of_toNat_eq hp)
  omega

theorem load_congr_of_ne_255 {rd rd' : MOffset → Byte}
    (hrd : ∀ a : MOffset, a.val < 16384 → rd a = rd' a) {p : Byte} (h : p ≠ 255) :
    load rd p = load rd' p :=
  Vector.ext fun i hi =>
    agreeBelow_load hrd (n := 10) (by have := toNat_le_of_ne_255 h; omega) i hi hi

theorem exists_of_mem_laterPositions (hs : HashState) (chunk : Chunk) (p : Byte) :
    p ∈ laterPositions hs chunk → ∃ i : Fin 112, 1 ≤ i.val ∧ (positionBuffer hs chunk)[i] = p := by
  rw [laterPositions, MixClosedForm.drop_one_toList]
  intro h
  obtain ⟨i, hi⟩ := List.mem_ofFn.1 h
  exact ⟨i.succ, Nat.succ_le_succ (Nat.zero_le _), hi⟩

/-- V of a pass is fixed by limbs 0 to 7 of the first load and limbs 0 to 8 of the others. -/
theorem mix_v_congr {rd rd' : MOffset → Byte} {hs : HashState} {chunk : Chunk}
    (hfirst : AgreeBelow 8 (load rd hs[0]) (load rd' hs[0]))
    (hlater : ∀ p ∈ laterPositions hs chunk, AgreeBelow 9 (load rd p) (load rd' p)) :
    (mix rd hs chunk).v = (mix rd' hs chunk).v := by
  rw [mix_v, mix_v]
  exact foldl_stepWith_congr (laterPositions_ne_nil hs chunk) hlater hfirst

/-- Settles O32: position 0 counts by limbs 0 to 7 only, which hold no tail byte, and the others by limbs 0 to 8,
which hold tail bytes 0 to 7 at most. -/
theorem tailIndependence : Obligations.TailIndependence := by
  refine fun rd rd' hs chunk => ⟨fun hrd hpos => ?_, fun hrd => ?_⟩
  · have hload {p : Byte} (hp : p ∈ laterPositions hs chunk) : load rd p = load rd' p := by
      obtain ⟨i, hi, rfl⟩ := exists_of_mem_laterPositions hs chunk p hp
      exact load_congr_of_ne_255 hrd (hpos i hi)
    have hv : (mix rd hs chunk).v = (mix rd' hs chunk).v :=
      mix_v_congr (agreeBelow_load hrd (by have := hs[0].isLt; omega))
        fun p hp i _ _ => by rw [hload hp]
    have hw : (mix rd hs chunk).w = (mix rd' hs chunk).w := by
      rw [mix_w, mix_w, ← getLast_laterPositions hs chunk, hload (List.getLast_mem _)]
    have hhs : (mix rd hs chunk).hs = (mix rd' hs chunk).hs := by rw [mix_hs, mix_hs, hv]
    exact mixState_ext hhs hv hw
  · have hv : (mix rd hs chunk).v = (mix rd' hs chunk).v :=
      mix_v_congr (agreeBelow_load hrd (by have := hs[0].isLt; omega))
        fun p _ => agreeBelow_load hrd (by have := p.isLt; omega)
    exact ⟨by rw [mix_hs, mix_hs, hv], hv⟩

end Sys2Proof.Laws.Mixer
end

section
/-! FINAL (46_output_filter.md R570, R580) and a whole hash context (R581, R582). -/

namespace Sys2Proof.Laws.Hash

open Machine

/-! ### FINAL -/

/-- What the commands read of MSTORE is a matter of two fields. -/
theorem mstoreByte_congr {s t : State} (hm : t.mstore = s.mstore) (he : t.epoch = s.epoch) :
    t.mstoreByte = s.mstoreByte := by
  funext a
  rw [State.mstoreByte, State.mstoreByte, hm, he]

theorem getElem_setMarkers (hs : HashState) (i : Nat) (hi : i < 128) :
    (setMarkers hs)[i] = if i = 126 then 0x02 else if i = 64 then 0x80 else hs[i] := by
  simp only [setMarkers, Vector.getElem_set, eq_comm (b := i)]

/-- MixPad writes no byte of the upper half of HS (R542, R521). -/
theorem mixPad_hs_upper (rd : MOffset → Byte) (hs : HashState) (p : List Byte) (i : Nat) (hi : i < 128)
    (h : 64 ≤ i) : (mixPad rd hs p).hs[i] = hs[i] := by
  by_cases hp : p.length = 96
  · simp only [Padding.mixPad_of_length_eq hp, mix_hs_upper _ _ _ i hi h]
  · simp only [Padding.mixPad_of_length_ne hp, mix_hs_upper _ _ _ i hi h]

/-- FINAL of a legal remainder, field by field (R580). -/
theorem exec_final {r : Byte} (hr : r.toNat ≤ 47) (s : State) : ∃ t, exec (.final r) s = .next t ∧
    t = { s with
      hs := t.hs, v := t.v, w := t.w, len := s.len + BitVec.ofNat 64 r.toNat, digest := filter t.hs
      phase := .done, busy := false, pending := none, cdone := true } ∧
    t.hs = setMarkers (mixPad s.mstoreByte s.hs (pad (s.chunk.toList.take r.toNat) t.len)).hs ∧
    t.v = (mixPad s.mstoreByte s.hs (pad (s.chunk.toList.take r.toNat) t.len)).v ∧
    t.w = (mixPad s.mstoreByte s.hs (pad (s.chunk.toList.take r.toNat) t.len)).w := by
  simp [exec, execFinal, complete, hr]

/-- Settles O34: the markers are the only bytes of the upper half that change, the rest is the pad's mixing. -/
theorem finalResult : Obligations.FinalResult := by
  intro s r hr
  obtain ⟨t, ht, hframe, hhs, hv, hw⟩ := exec_final hr s
  refine ⟨t, ht, hframe, ⟨fun i => ?_, hv, hw⟩, ?_, ?_, fun i hi h64 h126 => ?_⟩
  · simp only [hhs, getElem_setMarkers]
    rw [if_neg (by omega), if_neg (by omega)]
  · simp only [hhs, getElem_setMarkers]
    rfl
  · simp only [hhs, getElem_setMarkers]
    rfl
  · show t.hs[i.val] = s.hs[i.val]
    simp only [hhs, getElem_setMarkers]
    rw [if_neg h126, if_neg h64, mixPad_hs_upper _ _ _ i.val i.isLt hi]

theorem take_toList_congr {a b : Chunk} {r : Nat} (h : ∀ i : Fin 48, i.val < r → a[i] = b[i]) :
    a.toList.take r = b.toList.take r := by
  refine List.ext_getElem (by simp) fun i hi _ => ?_
  have hr : i < r ∧ i < 48 := by simpa using hi
  rw [List.getElem_take, List.getElem_take]
  exact h ⟨i, hr.2⟩ hr.1

/-- Settles O35: CHUNK enters FINAL only by its first `r` bytes. -/
theorem finalIgnoresRest : Obligations.FinalIgnoresRest := by
  intro s r b hb
  have htake := take_toList_congr hb
  have hread : State.mstoreByte { s with chunk := b } = s.mstoreByte := mstoreByte_congr rfl rfl
  simp only [exec, execFinal, htake, hread]
  split <;> simp only [andThen, complete]

/-! ### The chunks of a context (R581) -/

/-- ABSORB with CHUNK loaded before. -/
theorem exec_absorb_loaded (b : Chunk) (s : State) : ∃ t, exec .absorb { s with chunk := b } = .next t ∧
    t.mstoreByte = s.mstoreByte ∧ t.hs = (mix s.mstoreByte s.hs b).hs ∧ t.len = s.len + 48 := by
  obtain ⟨t, ht, hframe, hhs, -, -⟩ := Mixer.exec_absorb { s with chunk := b }
  refine ⟨t, ht, mstoreByte_congr ?_ ?_, hhs, ?_⟩ <;> rw [hframe]

/-- ABSORB on each chunk in order: HS by the passes in turn, LEN by 48 for each. -/
theorem absorbEach_next (chunks : List Chunk) (s : State) : ∃ t, absorbEach chunks s = .next t ∧
    t.mstoreByte = s.mstoreByte ∧
    t.hs = chunks.foldl (fun hs b => (mix s.mstoreByte hs b).hs) s.hs ∧
    t.len = s.len + BitVec.ofNat 64 (48 * chunks.length) := by
  induction chunks generalizing s with
  | nil => exact ⟨s, rfl, rfl, rfl, (BitVec.add_zero _).symm⟩
  | cons b rest ih =>
    obtain ⟨u, hu, hread, hhs, hlen⟩ := exec_absorb_loaded b s
    obtain ⟨t, ht, htread, hths, htlen⟩ := ih u
    refine ⟨t, by rw [absorbEach, hu]; exact ht, htread.trans hread, ?_, ?_⟩
    · rw [hths, hread, hhs, List.foldl_cons]
    · rw [htlen, hlen, BitVec.add_assoc, List.length_cons, Nat.mul_succ, Nat.add_comm, BitVec.ofNat_add]
      rfl

/-! ### The remainder -/

theorem getElem_chunkAt (p : List Byte) (b i : Nat) (hi : i < 48) :
    (chunkAt p b)[i] = p.getD (48 * b + i) 0 := by
  simp [chunkAt]

/-- The last chunk begins with what is left of the message after the full chunks. -/
theorem take_chunkAt_remainder (m : List Byte) :
    (chunkAt m (m.length / 48)).toList.take (m.length % 48) = m.drop (48 * (m.length / 48)) := by
  refine List.ext_getElem (by simp; omega) fun i hi _ => ?_
  rw [List.length_take, Vector.length_toList] at hi
  rw [List.getElem_take, Vector.getElem_toList, getElem_chunkAt, List.getElem_drop,
    List.getD_eq_getElem _ _ (by omega)]

theorem toNat_ofNat_remainder (n : Nat) : (BitVec.ofNat 8 (n % 48)).toNat = n % 48 := by
  rw [BitVec.toNat_ofNat]
  omega

/-- FINAL with CHUNK loaded before. -/
theorem exec_final_loaded (b : Chunk) {r : Byte} (hr : r.toNat ≤ 47) (s : State) :
    ∃ t, exec (.final r) { s with chunk := b } = .next t ∧ t.phase = .done ∧
      t.len = s.len + BitVec.ofNat 64 r.toNat ∧
      t.digest = filter (setMarkers
        (mixPad s.mstoreByte s.hs (pad (b.toList.take r.toNat) t.len)).hs) := by
  obtain ⟨t, ht, hframe, hhs, -, -⟩ := exec_final hr { s with chunk := b }
  have hdigest : t.digest = filter t.hs := by rw [hframe]
  refine ⟨t, ht, by rw [hframe], by rw [hframe], ?_⟩
  rw [hdigest, hhs]
  rfl

/-- Settles O37: INIT gives the empty hash state, the chunks are the full ones in order, and FINAL pads what is left
with the length that has been counted. -/
theorem contextComputesHash : Obligations.ContextComputesHash := by
  intro s m hm
  obtain ⟨u, hu, huread, huhs, hulen⟩ :=
    absorbEach_next ((List.range (m.length / 48)).map (chunkAt m)) (complete { s with
      hs := HashState.zero, len := 0, digest := Vector.replicate 32 0, phase := .absorb })
  have hread : u.mstoreByte = s.mstoreByte := huread
  have hhs : u.hs = absorbChunks s.mstoreByte m (m.length / 48) := huhs.trans List.foldl_map
  obtain ⟨t, ht, hphase, htlen, hdigest⟩ := exec_final_loaded (chunkAt m (m.length / 48))
    (r := BitVec.ofNat 8 (m.length % 48)) (by rw [toNat_ofNat_remainder]; omega) u
  have hlen : t.len = BitVec.ofNat 64 m.length := by
    rw [htlen, hulen, toNat_ofNat_remainder, complete_len, List.length_map, List.length_range,
      BitVec.ofNat_eq_ofNat, ← BitVec.ofNat_add, ← BitVec.ofNat_add, Nat.zero_add, Nat.div_add_mod]
  refine ⟨t, ?_, ?_, ?_, hphase⟩
  · simp only [hashContext, exec, execInit, andThen, hu]
    exact ht
  · rw [hdigest, hlen, toNat_ofNat_remainder, take_chunkAt_remainder, hread, hhs, hashMessage]
  · rw [hlen, BitVec.toNat_ofNat, Nat.mod_eq_of_lt hm]

end Sys2Proof.Laws.Hash
end

section
/-! Host accesses: refused CMD writes (60_exceptions.md R611), bus errors (R211, R607), writes read back and reads
(10_state.md R106 to R109), the fields of STATUS (R115) and the soft reset (70_reset_and_hazards.md R702). -/

namespace Sys2Proof.Laws.HostAccess

open Machine

/-! ### Refused commands (R611) -/

/-- What a raise changes (R610). -/
theorem raiseError_frame (c : ErrorCode) (info : Word) (s : State) : raiseError c info s = { s with
    err := (raiseError c info s).err
    errcode := (raiseError c info s).errcode
    errinfo := (raiseError c info s).errinfo
    errovf := (raiseError c info s).errovf
    runFaulted := (raiseError c info s).runFaulted } := by
  cases he : s.err
  · rw [Exceptions.raiseError_of_clear he]
  · rw [Exceptions.raiseError_of_recorded he]

/-- Settles O41: IssueCmd raises, discards or accepts. -/
theorem refusedChangesNothing : Obligations.RefusedChangesNothing := by
  refine ⟨fun s x => ?_, fun s c info => raiseError_runFaulted c info s⟩
  rcases issueCmd_cases x s with ⟨c, info, h⟩ | ⟨-, h⟩ | ⟨hb, he, -, h⟩
  · left
    rw [h]
    exact raiseError_frame c info s
  · left
    rw [h]
  · exact .inr ⟨hb, he, h⟩

/-! ### Bus errors (R211) -/

/-- An offset at which the window has no register (R105, R106). -/
def BadOffset (off : Nat) : Prop :=
  off % 8 ≠ 0 ∨ 0x400 ≤ off ∨ off = 0x038 ∨ (0x0B0 ≤ off ∧ off < 0x100) ∨ 0x220 ≤ off

theorem not_badOffset_regOffset (r : Reg) : ¬ BadOffset (regOffset r) := by
  cases r <;> simp only [BadOffset, regOffset] <;> omega

/-- The offsets that are left are those of the map, group by group. -/
theorem exists_regOffset {off : Nat} (h : ¬ BadOffset off) : ∃ r, regOffset r = off := by
  simp only [BadOffset, not_or, not_and, not_le, not_lt, Decidable.not_not] at h
  obtain ⟨h8, -, h38, hB0, h220⟩ := h
  have index {base : Nat} (hb : base % 8 = 0) (hle : base ≤ off) : base + 8 * ((off - base) / 8) = off := by
    omega
  by_cases h40 : off < 0x040
  · obtain h | h | h | h | h | h | h : off = 0x000 ∨ off = 0x008 ∨ off = 0x010 ∨ off = 0x018 ∨
        off = 0x020 ∨ off = 0x028 ∨ off = 0x030 := by omega
    · exact ⟨.id, h.symm⟩
    · exact ⟨.ctrl, h.symm⟩
    · exact ⟨.status, h.symm⟩
    · exact ⟨.cmd, h.symm⟩
    · exact ⟨.errinfo, h.symm⟩
    · exact ⟨.len, h.symm⟩
    · exact ⟨.mdata, h.symm⟩
  by_cases h70 : off < 0x070
  · exact ⟨.chunk ⟨(off - 0x040) / 8, by omega⟩, index rfl (by omega)⟩
  by_cases h80 : off < 0x080
  · exact ⟨.pt ⟨(off - 0x070) / 8, by omega⟩, index rfl (by omega)⟩
  by_cases h90 : off < 0x090
  · exact ⟨.ct ⟨(off - 0x080) / 8, by omega⟩, index rfl (by omega)⟩
  by_cases h100 : off < 0x100
  · exact ⟨.digest ⟨(off - 0x090) / 8, by omega⟩, index rfl (by omega)⟩
  by_cases h180 : off < 0x180
  · exact ⟨.hs ⟨(off - 0x100) / 8, by omega⟩, index rfl (by omega)⟩
  by_cases h1D0 : off < 0x1D0
  · exact ⟨.v ⟨(off - 0x180) / 8, by omega⟩, index rfl (by omega)⟩
  · exact ⟨.w ⟨(off - 0x1D0) / 8, by omega⟩, index rfl (by omega)⟩

theorem regAt_of_badOffset {off : Nat} (h : BadOffset off) : regAt off = none := by
  cases hr : regAt off with
  | none => rfl
  | some r => exact absurd h (regOffset_of_regAt hr ▸ not_badOffset_regOffset r)

/-- Settles O43: the map has a register at exactly the offsets that are not bad. -/
theorem busErrors : Obligations.BusErrors := by
  intro s off width x bad
  have hbad : bad ↔ width ≠ 64 ∨ BadOffset off := Iff.rfl
  rw [hbad, not_or, Decidable.not_not]
  refine ⟨fun h => ?_, fun ⟨hw, ho⟩ => ?_⟩
  · by_cases hw : width = 64
    · have hr := regAt_of_badOffset (h.resolve_left fun hn => hn hw)
      simp only [busRead, busWrite, hw, hr, if_true, busError, and_self]
    · simp only [busRead, busWrite, hw, if_false, busError, and_self]
  · obtain ⟨r, rfl⟩ := exists_regOffset ho
    exact ⟨r, rfl, by simp [busRead, hw], by simp [busWrite, hw]⟩

/-! ### Writes read back (R106, R109) -/

/-- The registers a host can write besides CTRL, STATUS and CMD (R105). -/
def Writable (r : Reg) : Prop :=
  (∃ k, r = .chunk k) ∨ (∃ k, r = .pt k) ∨ (∃ k, r = .v k) ∨ ∃ k, r = .w k

theorem regValue_written {r : Reg} (hr : Writable r) (x : Word) (s : State) :
    regValue r (performWrite r x s) = x := by
  rcases hr with ⟨k, rfl⟩ | ⟨k, rfl⟩ | ⟨k, rfl⟩ | ⟨k, rfl⟩
  · exact arrayWord_setArrayWord (m := 6) s.chunk k x
  · exact arrayWord_setArrayWord (m := 2) s.pt k x
  · exact Vector.getElem_set_self k.isLt
  · exact Vector.getElem_set_self k.isLt

/-- Only a register of the same group has its value in the field that is written. -/
theorem regValue_kept {r r' : Reg} (hr : Writable r) (h : r' ≠ r) (x : Word) (s : State) :
    regValue r' (performWrite r x s) = regValue r' s := by
  rcases hr with ⟨k, rfl⟩ | ⟨k, rfl⟩ | ⟨k, rfl⟩ | ⟨k, rfl⟩ <;> cases r'
  case inl.chunk j =>
    exact arrayWord_setArrayWord_ne (m := 6) s.chunk (fun hj => h (congrArg _ hj)) x
  case inr.inl.pt j =>
    exact arrayWord_setArrayWord_ne (m := 2) s.pt (fun hj => h (congrArg _ hj)) x
  case inr.inr.inl.v j | inr.inr.inr.w j =>
    exact Vector.getElem_set_ne k.isLt j.isLt fun hkj => h (congrArg _ (Fin.ext hkj.symm))
  all_goals simp only [performWrite, regValue, ctrlWord, statusWord]

/-- Settles O45: an idle block performs the write, which touches one word of one group. -/
theorem writeReadsBack : Obligations.WriteReadsBack := by
  intro s x r hb hr
  rw [Registers.writeReg_of_idle hb]
  exact ⟨regValue_written hr x s, fun r' h => regValue_kept hr h x s⟩

/-! ### Reads (R107, R212) -/

theorem readReg_of_drawn {s : State} {r : Reg} (hb : s.busy = true) (hr : drawnWhileBusy r = true) :
    readReg r s = { s with reply := .value (Config.readDraw s.draws), draws := s.draws + 1 } := by
  simp [readReg, hb, hr]

theorem readReg_of_value {s : State} {r : Reg} (h : s.busy = false ∨ drawnWhileBusy r = false) :
    readReg r s = { s with reply := .value (regValue r s) } := by
  rcases h with h | h <;> simp [readReg, h]

/-- A read of a register changes the answer and the counter of draws only. -/
theorem readReg_frame (r : Reg) (s : State) : readReg r s = { s with
    reply := (readReg r s).reply, draws := (readReg r s).draws } := by
  unfold readReg
  split <;> rfl

/-- Everything a read access can do (R211). -/
theorem busRead_cases (off width : Nat) (s : State) :
    busRead off width s = busError s ∨ ∃ r, busRead off width s = readReg r s := by
  unfold busRead
  split
  · split
    · exact .inr ⟨_, rfl⟩
    · exact .inl rfl
  · exact .inl rfl

theorem busRead_frame (off width : Nat) (s : State) : busRead off width s = { s with
    reply := (busRead off width s).reply
    draws := (busRead off width s).draws
    runFaulted := (busRead off width s).runFaulted } := by
  rcases busRead_cases off width s with h | ⟨r, h⟩
  · rw [h]
    rfl
  · rw [h, readReg_frame]

/-- Settles O46: the frame of a read access, and the two answers of a register. -/
theorem readsHaveNoEffect : Obligations.ReadsHaveNoEffect := by
  refine ⟨fun s off width => busRead_frame off width s, fun s r h => readReg_of_value ?_,
    fun s r hb h => readReg_of_drawn hb ?_⟩
  · rcases h with h | rfl | rfl | rfl | rfl | rfl | ⟨k, rfl⟩ | ⟨k, rfl⟩
    · exact .inl h
    all_goals exact .inr rfl
  · rcases h with rfl | rfl | ⟨k, rfl⟩ | ⟨k, rfl⟩ | ⟨k, rfl⟩ | ⟨k, rfl⟩ | ⟨k, rfl⟩ <;> rfl

/-! ### STATUS (R115) -/

/-- Settles O47: each field is one part of the append, found by its place. -/
theorem statusFields : Obligations.StatusFields := by
  intro s
  refine ⟨?_, ?_, ?_, ?_, ?_, ?_, ?_, ?_, ?_⟩
  case refine_3 =>
    rw [statusWord, BitVec.extractLsb'_append_eq_of_le (by decide),
      BitVec.extractLsb'_append_eq_of_le (by decide), BitVec.extractLsb'_append_eq_of_add_le (by decide),
      BitVec.extractLsb'_eq_self]
    rfl
  case refine_8 =>
    rw [statusWord]
    iterate 7 rw [BitVec.extractLsb'_append_eq_of_le (by decide)]
    rw [BitVec.extractLsb'_append_eq_of_add_le (by decide), BitVec.extractLsb'_eq_self]
  case refine_9 =>
    rw [statusWord]
    iterate 8 rw [BitVec.extractLsb'_append_eq_of_le (by decide)]
    exact BitVec.extractLsb'_eq_self
  all_goals
    simp only [statusWord, BitVec.getLsbD_append, BitVec.getLsbD_ofBool, BitVec.getLsbD_zero]
    simp
/-! ### Soft reset (R702) -/

/-- Settles O51: the values are those of `State.reset`, and MSTORE with its draws is kept. -/
theorem softResetValues : Obligations.SoftResetValues :=
  fun s => ⟨rfl, rfl, rfl, rfl, rfl, rfl, rfl, rfl, rfl, rfl,
    fun a => congrFun (Hash.mstoreByte_congr (softReset_mstore s) (softReset_epoch s)) a,
    Registers.ctrlWord_of_disabled rfl rfl, rfl⟩

end Sys2Proof.Laws.HostAccess
end

section
/-! The cipher E (41_cipher.md R423 to R427): field arithmetic, S-box and round keys by their definitions, and the four
transformations entry by entry. -/

namespace Sys2Proof.Laws.Cipher

open Machine

/-! ### Field arithmetic, the S-box and the round keys (R424 to R426) -/

/-- Doubling is multiplication by x modulo 0x11B, byte by byte. -/
theorem toNat_xtime : ∀ a < 256, (xtime (BitVec.ofNat 8 a)).toNat =
    (2 * (BitVec.ofNat 8 a).toNat) ^^^ (if 128 ≤ (BitVec.ofNat 8 a).toNat then 0x11B else 0) := by
  decide +kernel

/-- What holds of the 256 values holds of every byte. -/
theorem forall_byte {P : Byte → Prop} (h : ∀ a < 256, P (BitVec.ofNat 8 a)) (a : Byte) : P a := by
  simpa using h a.toNat a.isLt

theorem gfMul_gfInv_eq_one (a : Byte) : a ≠ 0 → gfMul a (gfInv a) = 1 := by
  refine forall_byte (P := fun a => a ≠ 0 → gfMul a (gfInv a) = 1) (fun n hn hne => ?_) a
  exact gfMul_gfInv n hn fun h0 => hne (by rw [h0]; rfl)

theorem gfInv_zero : gfInv 0 = 0 := by decide +kernel

theorem sbox_eq_affine (a : Byte) : sbox a = sboxAffine (gfInv a) :=
  forall_byte (P := fun a => sbox a = sboxAffine (gfInv a)) sbox_eq_definition a

/-- Byte `b` of word `n` of the key schedule (R426). -/
def keyByte (n b : Nat) : Byte := roundKeyByte (n / 4) (4 * (n % 4) + b)

/-- The round constants (R426). -/
def roundConstants : List Byte := [0x01, 0x02, 0x04, 0x08, 0x10, 0x20, 0x40, 0x80, 0x1b, 0x36]

theorem keyByte_first : ∀ n b : Fin 4, keyByte n.val b.val = 0 := by decide +kernel

/-- The words after the first four are those of the expansion. -/
theorem keyByte_expansion : ∀ (m : Fin 40) (b : Fin 4),
    keyByte (m.val + 4) b.val = keyByte (m.val + 4 - 4) b.val ^^^
      (if (m.val + 4) % 4 = 0 then
        sbox (keyByte (m.val + 4 - 1) ((b.val + 1) % 4)) ^^^
          (if b.val = 0 then roundConstants.getD ((m.val + 4) / 4 - 1) 0 else 0)
      else keyByte (m.val + 4 - 1) b.val) := by
  decide +kernel

/-! ### The transformations on s[r][c], byte r + 4c (R427) -/

theorem getElem_shiftRows (s : Block) {r k : Nat} (hr : r < 4) (hk : k < 4) :
    (shiftRows s)[r + 4 * k] = s[r + 4 * ((k + r) % 4)] := by
  simp only [shiftRows, Vector.getElem_ofFn, show (r + 4 * k) % 4 = r by omega,
    show (r + 4 * k) / 4 = k by omega]

/-- Row `r` of column `k` after MixColumns is entry `r` of that column, mixed. -/
theorem getElem_mixColumns (s : Block) {r k : Nat} (hr : r < 4) (hk : k < 4) :
    (mixColumns s)[r + 4 * k] =
      (mixColumn s[0 + 4 * k] s[1 + 4 * k] s[2 + 4 * k] s[3 + 4 * k])[r] := by
  simp only [mixColumns, Vector.getElem_ofFn, show (r + 4 * k) % 4 = r by omega,
    show (r + 4 * k) / 4 = k by omega, Nat.zero_add, Nat.add_comm]

/-- Settles O12: the tables against their definitions, value by value; the transformations by their entries; the
rounds by unrolling. -/
theorem cipherRounds : Obligations.CipherRounds := by
  refine ⟨forall_byte toNat_xtime, fun a => rfl, fun a => ⟨gfInv a, ?_, gfMul_gfInv_eq_one a,
    sbox_eq_affine a⟩, ⟨keyByte_first, keyByte_expansion⟩, fun s k i => ?_, fun s i => ?_,
    fun s r k => getElem_shiftRows s r.isLt k.isLt, fun s k => ?_, fun input => ?_⟩
  · rintro rfl
    exact gfInv_zero
  · exact Vector.getElem_ofFn i.isLt
  · exact Vector.getElem_map _ i.isLt
  · exact ⟨getElem_mixColumns s (r := 0) (by decide) k.isLt, getElem_mixColumns s (r := 1) (by decide) k.isLt,
      getElem_mixColumns s (r := 2) (by decide) k.isLt, getElem_mixColumns s (r := 3) (by decide) k.isLt⟩
  · rfl

end Sys2Proof.Laws.Cipher
end

section
/-! The whole machine: whose move a step is (R104, R220), what keeps the invariant, and which steps change MSTORE,
MREADY and PHASE (R117, R118, R204, R600). -/

namespace Sys2Proof.Laws.WholeMachine

open Machine

/-! ### Whose move it is (R104, R220) -/

theorem step_of_idle {s : State} (h : s.pending = none) : step s = .next (hostStep s) := by
  rw [step, h]

theorem step_of_engine {s : State} {x : Word} {i : Instr} (hp : s.pending = some x)
    (ht : engineTurn s = true) (hd : decode x = .command i) : step s = exec i s := by
  simp only [step, hp, ht, if_true, hd]

theorem step_of_waiting {s : State} {x : Word} (hp : s.pending = some x) (ht : engineTurn s = false) :
    step s = .next (hostStep { s with delay := s.delay - 1 }) := by
  rw [step, hp]
  simp only [ht, Bool.false_eq_true, if_false]

theorem hostStep_of_nil {s : State} (h : s.script = []) : hostStep s = s := by
  rw [hostStep, h]

theorem hostStep_of_cons {s : State} {stmt : HostStmt} {rest : List HostStmt}
    (h : s.script = stmt :: rest) : hostStep s = runStmt stmt rest s := by
  rw [hostStep, h]

/-- Settles O6: the step's branch for the engine. -/
theorem stepRunsPending : Obligations.StepRunsPending := fun _ _ _ => step_of_engine

/-- Settles O7: the step's other branches. -/
theorem stepIsHostsOtherwise : Obligations.StepIsHostsOtherwise :=
  ⟨fun _ => step_of_idle, fun _ hp hs => (step_of_idle hp).trans (congrArg _ (hostStep_of_nil hs)),
    fun _ _ => step_of_waiting⟩

/-! ### What the pending command of a state of the invariant does (R600) -/

theorem wellFormed_of_issueCheck {i : Instr} {s : State} (h : issueCheck i s = none) :
    i.WellFormed = true := by
  cases hw : i.WellFormed
  · rw [Exceptions.issueCheck_of_illFormed hw] at h
    cases h
  · rfl

theorem pending_runs {s : State} (hs : StateInv s) {x : Word} (hp : s.pending = some x) :
    ∃ i t, decode x = .command i ∧ exec i s = .next t := by
  obtain ⟨i, hd, hc⟩ := hs.accepted x hp
  obtain ⟨t, ht⟩ := Commands.everyCommandCompletes i s (wellFormed_of_issueCheck hc)
  exact ⟨i, t, hd, ht⟩

/-- Settles O57: an accepted command completes, and the host can always make its move. -/
theorem neverStops : Obligations.NeverStops := by
  intro s hs
  cases hp : s.pending with
  | none => exact ⟨_, step_of_idle hp⟩
  | some x =>
    obtain ⟨i, t, hd, ht⟩ := pending_runs hs hp
    cases hturn : engineTurn s
    · exact ⟨_, step_of_waiting hp hturn⟩
    · exact ⟨t, (step_of_engine hp hturn hd).trans ht⟩

/-- With no command pending a WAIT ends at its first read of STATUS (R311). -/
theorem hostStep_wait {s : State} {rest : List HostStmt} (hs : s.script = .wait :: rest)
    (hb : s.busy = false) :
    hostStep s = { s with script := rest, reply := .value (statusWord s) } := by
  rw [hostStep_of_cons hs, runStmt, if_neg (by simp [hb])]
  exact HostAccess.readReg_of_value (r := .status) (s := { s with script := rest }) (.inr rfl)

/-- Settles O8: the engine moves under the WAIT, and the completion leaves BUSY = 0 for the host's read. -/
theorem waitEnds : Obligations.WaitEnds := by
  intro s rest hs hpend hscript
  obtain ⟨x, hp⟩ := Option.ne_none_iff_exists'.1 hpend
  obtain ⟨i, u, hd, hu⟩ := pending_runs hs hp
  have hturn : engineTurn s = true := by rw [engineTurn, hscript]
  have hfirst : core.step s = .next u := (step_of_engine hp hturn hd).trans hu
  have hframe := Completion.exec_next_frame hu
  have hub : u.busy = false := by rw [hframe]
  have hup : u.pending = none := by rw [hframe]
  have hus : u.script = .wait :: rest := by rw [hframe, ← hscript]
  have hsecond : core.step u = .next { u with script := rest, reply := .value (statusWord u) } :=
    (step_of_idle hup).trans (congrArg _ (hostStep_wait hus hub))
  refine ⟨{ u with script := rest, reply := .value (statusWord u) }, ?_, rfl, hup, hub, rfl⟩
  simp only [Host.Core.run, hfirst, hsecond]

/-! ### What every host access but a reset keeps -/

/-- The fields that only commands and resets write, and that the invariant ties to PHASE and MREADY. -/
structure ContextKept (s t : State) : Prop where
  mready : t.mready = s.mready
  mstore : t.mstore = s.mstore
  phase : t.phase = s.phase
  len : t.len = s.len
  hs : t.hs = s.hs
  digest : t.digest = s.digest

theorem contextKept_raiseError (c : ErrorCode) (info : Word) (s : State) :
    ContextKept s (raiseError c info s) := by
  constructor <;> simp

theorem contextKept_issueCmd (x : Word) (s : State) : ContextKept s (issueCmd x s) := by
  rcases issueCmd_cases x s with ⟨c, info, h⟩ | ⟨-, h⟩ | ⟨-, -, -, h⟩ <;> rw [h]
  · exact contextKept_raiseError c info s
  · exact ⟨rfl, rfl, rfl, rfl, rfl, rfl⟩
  · exact ⟨rfl, rfl, rfl, rfl, rfl, rfl⟩

/-- STATUS takes its write in every state (R115). -/
theorem writeStatus_eq (x : Word) (s : State) : writeStatus x s = { s with
    cdone := s.cdone && !x.getLsbD 4
    err := s.err && !x.getLsbD 5
    errcode := if x.getLsbD 5 then 0 else s.errcode
    errinfo := if x.getLsbD 5 then 0 else s.errinfo
    errovf := s.errovf && !x.getLsbD 6 } :=
  (Registers.writeReg_of_unguarded (r := .status) rfl x s).symm.trans (Exceptions.statusWrite s x)

theorem contextKept_writeStatus (x : Word) (s : State) : ContextKept s (writeStatus x s) := by
  rw [writeStatus_eq]
  exact ⟨rfl, rfl, rfl, rfl, rfl, rfl⟩

theorem contextKept_writeCtrl {x : Word} (hx : x.getLsbD 0 = false) (s : State) :
    ContextKept s (writeCtrl x s) := by
  rw [Registers.writeCtrl_of_enables hx]
  exact ⟨rfl, rfl, rfl, rfl, rfl, rfl⟩

/-- A write that is performed is a soft reset or keeps the context. -/
theorem performWrite_cases (r : Reg) (x : Word) (s : State) :
    (r = .ctrl ∧ x.getLsbD 0 = true ∧ performWrite r x s = softReset s) ∨
      ContextKept s (performWrite r x s) := by
  cases r
  case ctrl =>
    cases hx : x.getLsbD 0
    · exact .inr (contextKept_writeCtrl hx s)
    · exact .inl ⟨rfl, rfl, Registers.writeCtrl_of_reset hx s⟩
  case status => exact .inr (contextKept_writeStatus x s)
  case cmd => exact .inr (contextKept_issueCmd x s)
  all_goals
    right
    rw [performWrite]
    exact ⟨rfl, rfl, rfl, rfl, rfl, rfl⟩

/-- Everything a write access can do (R211). -/
theorem busWrite_cases (off width : Nat) (x : Word) (s : State) :
    busWrite off width x s = busError s ∨ ∃ r, off = regOffset r ∧ width = 64 ∧
      busWrite off width x s = { writeReg r x s with reply := .ack } := by
  unfold busWrite
  split
  · split
    · exact .inr ⟨_, (regOffset_of_regAt ‹_›).symm, ‹_›, rfl⟩
    · exact .inl rfl
  · exact .inl rfl

/-- A write access is a soft reset or keeps the context. -/
theorem busWrite_context (off width : Nat) (x : Word) (s : State) :
    (off = 0x008 ∧ width = 64 ∧ x.getLsbD 0 = true ∧
      busWrite off width x s = { softReset s with reply := .ack }) ∨
      ContextKept s (busWrite off width x s) := by
  rcases busWrite_cases off width x s with h | ⟨r, hoff, hw, h⟩ <;> rw [h]
  · exact .inr ⟨rfl, rfl, rfl, rfl, rfl, rfl⟩
  · rcases writeReg_cases r x s with ⟨c, info, hr⟩ | ⟨-, hr⟩ <;> rw [hr]
    · obtain ⟨h1, h2, h3, h4, h5, h6⟩ := contextKept_raiseError c info s
      exact .inr ⟨h1, h2, h3, h4, h5, h6⟩
    · rcases performWrite_cases r x s with ⟨rfl, hx, hp⟩ | ⟨h1, h2, h3, h4, h5, h6⟩
      · exact .inl ⟨hoff, hw, hx, by rw [hp]⟩
      · exact .inr ⟨h1, h2, h3, h4, h5, h6⟩

theorem contextKept_busRead (off width : Nat) (s : State) : ContextKept s (busRead off width s) := by
  rw [HostAccess.busRead_frame]
  exact ⟨rfl, rfl, rfl, rfl, rfl, rfl⟩

theorem contextKept_readReg (r : Reg) (s : State) : ContextKept s (readReg r s) := by
  rw [HostAccess.readReg_frame]
  exact ⟨rfl, rfl, rfl, rfl, rfl, rfl⟩

/-- The host's move is one of the two resets or keeps the context (R118, R204). -/
theorem hostStep_context (s : State) :
    (∃ rest, s.script = .hardReset :: rest ∧ hostStep s = hardReset { s with script := rest }) ∨
    (∃ x rest, x.getLsbD 0 = true ∧ s.script = .write 0x008 64 x :: rest ∧
      hostStep s = { softReset { s with script := rest } with reply := .ack }) ∨
    ContextKept s (hostStep s) := by
  rcases hostStep_cases s with ⟨-, h⟩ | ⟨stmt, rest, hscript, h⟩ <;> rw [h]
  · exact .inr (.inr ⟨rfl, rfl, rfl, rfl, rfl, rfl⟩)
  cases stmt with
  | read off width =>
    obtain ⟨h1, h2, h3, h4, h5, h6⟩ := contextKept_busRead off width { s with script := rest }
    exact .inr (.inr ⟨h1, h2, h3, h4, h5, h6⟩)
  | write off width x =>
    rcases busWrite_context off width x { s with script := rest } with
      ⟨rfl, rfl, hx, hw⟩ | ⟨h1, h2, h3, h4, h5, h6⟩
    · exact .inr (.inl ⟨x, rest, hx, hscript, hw⟩)
    · exact .inr (.inr ⟨h1, h2, h3, h4, h5, h6⟩)
  | wait =>
    rw [runStmt]
    split
    · exact .inr (.inr (contextKept_readReg .status s))
    · obtain ⟨h1, h2, h3, h4, h5, h6⟩ := contextKept_readReg .status { s with script := rest }
      exact .inr (.inr ⟨h1, h2, h3, h4, h5, h6⟩)
  | hardReset => exact .inl ⟨rest, hscript, rfl⟩

/-! ### What commands keep -/

/-- All commands but four keep the context. -/
theorem contextKept_exec {i : Instr} {s t : State} (h : exec i s = .next t) (hinit : i ≠ .init)
    (habsorb : i ≠ .absorb) (hfinal : ∀ r, i ≠ .final r) (hmatrix : i ≠ .genMatrix) : ContextKept s t := by
  cases i
  case init => exact absurd rfl hinit
  case absorb => exact absurd rfl habsorb
  case final r => exact absurd rfl (hfinal r)
  case genMatrix => exact absurd rfl hmatrix
  case mread idx =>
    rw [exec, execMread] at h
    split at h
    · obtain rfl := Host.Outcome.next.inj h
      exact ⟨rfl, rfl, rfl, rfl, rfl, rfl⟩
    · cases h
  all_goals
    obtain rfl := Host.Outcome.next.inj h
    exact ⟨rfl, rfl, rfl, rfl, rfl, rfl⟩

/-- INIT, field by field (R402). -/
theorem frame_of_init {s t : State} (h : exec .init s = .next t) : t = { s with
    hs := HashState.zero, len := 0, digest := Vector.replicate 32 0, phase := .absorb
    busy := false, pending := none, cdone := true } :=
  (Host.Outcome.next.inj h).symm

theorem frame_of_absorb {s t : State} (h : exec .absorb s = .next t) : t = { s with
    hs := t.hs, v := t.v, w := t.w, len := s.len + 48
    busy := false, pending := none, cdone := true } := by
  obtain ⟨u, hu, hframe, -⟩ := Mixer.exec_absorb s
  obtain rfl := Host.Outcome.next.inj (hu.symm.trans h)
  exact hframe

theorem le_of_exec_final {r : Byte} {s t : State} (h : exec (.final r) s = .next t) : r.toNat ≤ 47 := by
  by_contra hr
  rw [Commands.exec_final_of_gt (Nat.lt_of_not_le hr)] at h
  cases h

theorem frame_of_final {r : Byte} {s t : State} (h : exec (.final r) s = .next t) : t = { s with
    hs := t.hs, v := t.v, w := t.w, len := s.len + BitVec.ofNat 64 r.toNat, digest := filter t.hs
    phase := .done, busy := false, pending := none, cdone := true } := by
  obtain ⟨u, hu, hframe, -⟩ := Hash.exec_final (le_of_exec_final h) s
  obtain rfl := Host.Outcome.next.inj (hu.symm.trans h)
  exact hframe

theorem frame_of_genMatrix {s t : State} (h : exec .genMatrix s = .next t) :
    t = { s with mstore := t.mstore, mready := true, busy := false, pending := none, cdone := true } ∧
    t.mstore = s.mstore.writeTable := by
  obtain ⟨u, hu, hframe⟩ := Matrix.exec_genMatrix s
  obtain rfl := Host.Outcome.next.inj (hu.symm.trans h)
  exact hframe

/-- Only GEN_MATRIX writes MSTORE and MREADY (R204, R117). -/
theorem matrixKept_exec {i : Instr} {s t : State} (h : exec i s = .next t) (hi : i ≠ .genMatrix) :
    t.mstore = s.mstore ∧ t.mready = s.mready := by
  cases i
  case init => constructor <;> rw [frame_of_init h]
  case absorb => constructor <;> rw [frame_of_absorb h]
  case final r => constructor <;> rw [frame_of_final h]
  case genMatrix => exact absurd rfl hi
  all_goals
    have hk := contextKept_exec h nofun nofun nofun nofun
    exact ⟨hk.mstore, hk.mready⟩

/-- Only INIT and FINAL write PHASE (R118). -/
theorem phase_exec {i : Instr} {s t : State} (h : exec i s = .next t) :
    t.phase = s.phase ∨ (i = .init ∧ t.phase = .absorb) ∨ ∃ r, i = .final r ∧ t.phase = .done := by
  cases i
  case init => exact .inr (.inl ⟨rfl, by rw [frame_of_init h]⟩)
  case absorb => exact .inl (by rw [frame_of_absorb h])
  case final r => exact .inr (.inr ⟨r, rfl, by rw [frame_of_final h]⟩)
  case genMatrix => exact .inl (by rw [(frame_of_genMatrix h).1])
  all_goals exact .inl (contextKept_exec h nofun nofun nofun nofun).phase

/-! ### Which steps change MSTORE, MREADY and PHASE -/

/-- A step is the host's move, LATENCY's count aside, or the engine's on the word of a command. -/
theorem step_moves {s t : State} (h : step s = .next t) :
    (∃ d, t = hostStep { s with delay := d }) ∨
      ∃ i, s.pending = some (encode i) ∧ engineTurn s = true ∧ exec i s = .next t := by
  rcases step_cases h with ⟨-, ht⟩ | ⟨x, -, -, ht⟩ | ⟨x, i, hp, hturn, hd, ht⟩
  · exact .inl ⟨s.delay, ht⟩
  · exact .inl ⟨s.delay - 1, ht⟩
  · rw [← Encoding.encodeOfDecode x i hd] at hp
    exact .inr ⟨i, hp, hturn, ht⟩

/-- The host reaches MSTORE and MREADY by the hardware reset alone. -/
theorem hostStep_matrix (s : State) :
    ((∃ rest, s.script = .hardReset :: rest) ∧ (hostStep s).mready = resetMready) ∨
      (hostStep s).mstore = s.mstore ∧ (hostStep s).mready = s.mready := by
  rcases hostStep_context s with ⟨rest, hscript, h⟩ | ⟨x, rest, -, -, h⟩ | h
  · exact .inl ⟨⟨rest, hscript⟩, by rw [h, hardReset_mready]⟩
  · rw [h]
    exact .inr ⟨rfl, rfl⟩
  · exact .inr ⟨h.mstore, h.mready⟩

/-- Settles O58: the other commands and host moves keep MSTORE. -/
theorem onlyGenMatrixWrites : Obligations.OnlyGenMatrixWrites := by
  intro s t h hne
  rcases step_moves h with ⟨d, rfl⟩ | ⟨i, hp, hturn, ht⟩
  · rcases hostStep_matrix { s with delay := d } with ⟨hreset, -⟩ | ⟨hm, -⟩
    · exact .inr hreset
    · exact absurd hm hne
  · by_cases hi : i = .genMatrix
    · exact .inl ⟨hi ▸ hp, hturn⟩
    · exact absurd (matrixKept_exec ht hi).1 hne

/-- MREADY after a hardware reset tells the build (R117, R170). -/
theorem resetMready_eq_true_iff : resetMready = true ↔ Config.matrixAtReset = .preloaded := decide_eq_true_iff

theorem empty_of_resetMready (h : resetMready = false) : Config.matrixAtReset = .empty := by
  cases hc : Config.matrixAtReset
  · rfl
  · rw [Reset.resetMready_of_preloaded hc] at h
    cases h

/-- Settles O59: GEN_MATRIX sets MREADY, the hardware reset gives it the build's value, all else keeps it. -/
theorem mreadyChanges : Obligations.MreadyChanges := by
  intro s t h
  rcases step_moves h with ⟨d, rfl⟩ | ⟨i, hp, hturn, ht⟩
  · rcases hostStep_matrix { s with delay := d } with ⟨hreset, hr⟩ | ⟨-, hr⟩ <;> rw [hr]
    · exact ⟨fun _ hset => .inr ⟨resetMready_eq_true_iff.1 hset, hreset⟩,
        fun _ hclear => ⟨empty_of_resetMready hclear, hreset⟩⟩
    · exact ⟨fun h0 h1 => absurd (h0.symm.trans h1) nofun, fun h1 h0 => absurd (h0.symm.trans h1) nofun⟩
  · by_cases hi : i = .genMatrix
    · subst hi
      have hset : t.mready = true := by rw [(frame_of_genMatrix ht).1]
      exact ⟨fun _ _ => .inl ⟨hp, hturn⟩, fun _ h0 => absurd (h0.symm.trans hset) nofun⟩
    · rw [(matrixKept_exec ht hi).2]
      exact ⟨fun h0 h1 => absurd (h0.symm.trans h1) nofun, fun h1 h0 => absurd (h0.symm.trans h1) nofun⟩

/-- Settles O60: two commands and two resets write PHASE, each with a value of its own. -/
theorem phaseTransitions : Obligations.PhaseTransitions := by
  intro s t h hne
  rcases step_moves h with ⟨d, rfl⟩ | ⟨i, hp, hturn, ht⟩
  · rcases hostStep_context { s with delay := d } with ⟨rest, hscript, hh⟩ | ⟨x, rest, hx, hscript, hh⟩ | hh
    · exact .inr (.inr ⟨by rw [hh, hardReset_phase], .inl ⟨rest, hscript⟩⟩)
    · exact .inr (.inr ⟨by rw [hh, softReset_phase], .inr ⟨x, rest, hx, hscript⟩⟩)
    · exact absurd hh.phase hne
  · rcases phase_exec ht with hk | ⟨rfl, hphase⟩ | ⟨r, rfl, hphase⟩
    · exact absurd hk hne
    · exact .inl ⟨hphase, hp, hturn⟩
    · exact .inr (.inl ⟨hphase, hturn, r, hp⟩)

end Sys2Proof.Laws.WholeMachine
end

section
/-! The invariant: its parts, what keeps each of them, and that every step does (R104, R117, R122, R143, R600, R603). -/

namespace Sys2Proof.Laws.Invariant

open Machine WholeMachine

/-! ### The parts of the invariant -/

/-- The part on the error record (R122, R601, R613). -/
structure RecordInv (s : State) : Prop where
  noError : s.err = false → s.errcode = 0 ∧ s.errinfo = 0
  errorCode : s.err = true → ∃ c : ErrorCode, s.errcode = errorNumber c
  runRecord : s.err = true ∨ s.errovf = true → s.runFaulted = true

/-- The part on MSTORE and MREADY (R117, R201). -/
structure MatrixInv (s : State) : Prop where
  memory : s.mstore.wf
  table : s.mready = true → ∀ a, a < 16384 → s.mstore.byte? a = some (tableByte a)

/-- The part on PHASE and the fields of a hash context (R118, R131, R143). -/
structure ContextInv (s : State) : Prop where
  idle : s.phase = .idle → s.hs = HashState.zero ∧ s.len = 0 ∧ s.digest = Vector.replicate 32 0
  openContext : s.phase = .absorb →
    (∀ i : Fin 128, 64 ≤ i.val → s.hs[i] = 0) ∧ s.digest = Vector.replicate 32 0
  finished : s.phase = .done →
    s.hs[64] = 0x80 ∧ s.hs[126] = 0x02 ∧
      (∀ i : Fin 128, 64 ≤ i.val → i.val ≠ 64 → i.val ≠ 126 → s.hs[i] = 0) ∧
      s.digest = filter s.hs

theorem recordInv_of_inv {s : State} (h : StateInv s) : RecordInv s :=
  ⟨h.noError, h.errorCode, h.runRecord⟩

theorem matrixInv_of_inv {s : State} (h : StateInv s) : MatrixInv s := ⟨h.memory, h.table⟩

theorem contextInv_of_inv {s : State} (h : StateInv s) : ContextInv s :=
  ⟨h.idle, h.openContext, h.finished⟩

/-- Where no command is pending the parts are all. -/
theorem inv_of_parts_idle {s : State} (hb : s.busy = false) (hp : s.pending = none) (hr : RecordInv s)
    (hm : MatrixInv s) (hc : ContextInv s) : StateInv s where
  busyPending := by rw [hb, hp, Option.isSome_none]
  accepted := fun x hx => by rw [hp] at hx; cases hx
  noError := hr.noError
  errorCode := hr.errorCode
  runRecord := hr.runRecord
  memory := hm.memory
  table := hm.table
  idle := hc.idle
  openContext := hc.openContext
  finished := hc.finished

theorem contextInv_congr {s t : State} (h : ContextInv s) (hphase : t.phase = s.phase)
    (hlen : t.len = s.len) (hhs : t.hs = s.hs) (hdigest : t.digest = s.digest) : ContextInv t := by
  obtain ⟨h1, h2, h3⟩ := h
  constructor <;> simp only [hphase, hlen, hhs, hdigest]
  · exact h1
  · exact h2
  · exact h3

theorem matrixInv_congr {s t : State} (h : MatrixInv s) (hm : t.mstore = s.mstore)
    (hr : t.mready = s.mready) : MatrixInv t := by
  obtain ⟨h1, h2⟩ := h
  constructor
  · rwa [hm]
  · rwa [hm, hr]

/-- The checks of R603 read MREADY, PHASE and LEN. -/
theorem issueCheck_congr {s t : State} (h : ContextKept s t) (i : Instr) :
    issueCheck i t = issueCheck i s := by
  rw [issueCheck, issueCheck, h.mready, h.phase, h.len]

/-- A move that keeps the context and the pending command keeps all but the error record. -/
theorem inv_of_contextKept {s t : State} (h : StateInv s) (hk : ContextKept s t)
    (hb : t.busy = s.busy) (hp : t.pending = s.pending) (hr : RecordInv t) : StateInv t := by
  obtain ⟨hm1, hm2⟩ := matrixInv_congr (matrixInv_of_inv h) hk.mstore hk.mready
  obtain ⟨hc1, hc2, hc3⟩ := contextInv_congr (contextInv_of_inv h) hk.phase hk.len hk.hs hk.digest
  obtain ⟨hr1, hr2, hr3⟩ := hr
  refine ⟨?_, fun x hx => ?_, hr1, hr2, hr3, hm1, hm2, hc1, hc2, hc3⟩
  · rw [hb, hp]
    exact h.busyPending
  · simp only [issueCheck_congr hk]
    exact h.accepted x (hp ▸ hx)

/-- A move that touches only fields the invariant does not speak of. -/
theorem inv_of_frame {s t : State} (h : StateInv s) (ht : t = { s with
    ieDone := t.ieDone, ieErr := t.ieErr, cdone := t.cdone, mdata := t.mdata, chunk := t.chunk, pt := t.pt
    ct := t.ct, v := t.v, w := t.w, script := t.script, reply := t.reply, delay := t.delay
    issued := t.issued, draws := t.draws, epoch := t.epoch }) : StateInv t := by
  rw [ht]
  exact inv_of_contextKept h ⟨rfl, rfl, rfl, rfl, rfl, rfl⟩ rfl rfl
    ⟨h.noError, h.errorCode, h.runRecord⟩

/-! ### The resets (R170, R700, R702) -/

/-- A state whose fields but MREADY, MSTORE and the model's own are those of reset. -/
theorem inv_of_reset_fields {s : State} (ht : s = { State.reset with
    mready := s.mready, mstore := s.mstore, script := s.script, reply := s.reply, issued := s.issued
    draws := s.draws, epoch := s.epoch, runFaulted := s.runFaulted }) (hm : MatrixInv s) : StateInv s := by
  refine inv_of_parts_idle (by rw [ht]; rfl) (by rw [ht]; rfl) ⟨?_, ?_, ?_⟩ hm ⟨?_, ?_, ?_⟩ <;> rw [ht]
  · exact fun _ => ⟨rfl, rfl⟩
  · exact nofun
  · rintro (h | h) <;> cases h
  · exact fun _ => ⟨rfl, rfl, rfl⟩
  · exact nofun
  · exact nofun

theorem wf_resetMstore : resetMstore.wf := by
  unfold resetMstore
  split
  · exact Mem.wf_writeTable Mem.wf_nil
  · exact Mem.wf_nil

/-- MSTORE and MREADY as a hardware reset leaves them. -/
theorem matrixInv_of_reset {s : State} (hm : s.mstore = resetMstore) (hr : s.mready = resetMready) :
    MatrixInv s where
  memory := hm ▸ wf_resetMstore
  table := fun h a ha => by
    rw [hm, Reset.resetMstore_of_preloaded (resetMready_eq_true_iff.1 (hr ▸ h)), Mem.byte?_writeTable,
      if_pos ha]

/-- Settles O55: the values of reset, and the matrix that the build gives. -/
theorem invariantAtReset : Obligations.InvariantAtReset :=
  inv_of_reset_fields rfl (matrixInv_of_reset rfl rfl)

theorem inv_hardReset (s : State) : StateInv (hardReset s) :=
  inv_of_reset_fields rfl (matrixInv_of_reset rfl rfl)

theorem inv_softReset {s : State} (h : StateInv s) : StateInv (softReset s) :=
  inv_of_reset_fields rfl (matrixInv_congr (matrixInv_of_inv h) rfl rfl)

/-! ### Host accesses -/

theorem inv_raiseError {s : State} (h : StateInv s) (c : ErrorCode) (info : Word) :
    StateInv (raiseError c info s) := by
  refine inv_of_contextKept h (contextKept_raiseError c info s) (raiseError_busy c info s)
    (raiseError_pending c info s) ⟨?_, fun _ => ?_, fun _ => raiseError_runFaulted c info s⟩
  · rw [raiseError_err]
    exact nofun
  · rw [raiseError_errcode]
    split
    · exact h.errorCode ‹_›
    · exact ⟨c, rfl⟩

/-- A command is accepted by the checks of this very state (R603). -/
theorem inv_accept {s : State} (h : StateInv s) {x : Word}
    (hx : ∃ i, decode x = .command i ∧ issueCheck i s = none) : StateInv (accept x s) where
  busyPending := rfl
  accepted := fun y hy => by
    obtain rfl := Option.some.inj hy
    exact hx
  noError := h.noError
  errorCode := h.errorCode
  runRecord := h.runRecord
  memory := h.memory
  table := h.table
  idle := h.idle
  openContext := h.openContext
  finished := h.finished

theorem inv_issueCmd {s : State} (h : StateInv s) (x : Word) : StateInv (issueCmd x s) := by
  rcases issueCmd_cases x s with ⟨c, info, hi⟩ | ⟨he, hi⟩ | ⟨-, -, hx, hi⟩ <;> rw [hi]
  · exact inv_raiseError h c info
  · exact inv_of_contextKept h ⟨rfl, rfl, rfl, rfl, rfl, rfl⟩ rfl rfl
      ⟨h.noError, h.errorCode, fun _ => h.runRecord (.inl he)⟩
  · exact inv_accept h hx

/-- CLRERR takes the whole record, the other bits none of it (R612). -/
theorem inv_writeStatus {s : State} (h : StateInv s) (x : Word) : StateInv (writeStatus x s) := by
  refine inv_of_contextKept h (contextKept_writeStatus x s) ?_ ?_ ?_ <;> rw [writeStatus_eq]
  refine ⟨?_, ?_, ?_⟩
  · cases x.getLsbD 5
    · simpa using h.noError
    · simp
  · cases x.getLsbD 5
    · simpa using h.errorCode
    · simp
  · exact fun he => h.runRecord (he.imp (fun hb => (Bool.and_eq_true_iff.1 hb).1)
      fun hb => (Bool.and_eq_true_iff.1 hb).1)

theorem inv_writeCtrl {s : State} (h : StateInv s) (x : Word) : StateInv (writeCtrl x s) := by
  cases hx : x.getLsbD 0
  · rw [Registers.writeCtrl_of_enables hx]
    exact inv_of_frame h rfl
  · rw [Registers.writeCtrl_of_reset hx]
    exact inv_softReset h

theorem inv_performWrite {s : State} (h : StateInv s) (r : Reg) (x : Word) :
    StateInv (performWrite r x s) := by
  cases r
  case ctrl => exact inv_writeCtrl h x
  case status => exact inv_writeStatus h x
  case cmd => exact inv_issueCmd h x
  case chunk | pt | v | w =>
    rw [performWrite]
    exact inv_of_frame h rfl
  all_goals exact h

theorem inv_writeReg {s : State} (h : StateInv s) (r : Reg) (x : Word) : StateInv (writeReg r x s) := by
  rcases writeReg_cases r x s with ⟨c, info, hw⟩ | ⟨-, hw⟩ <;> rw [hw]
  · exact inv_raiseError h c info
  · exact inv_performWrite h r x

theorem inv_busError {s : State} (h : StateInv s) : StateInv (busError s) :=
  inv_of_contextKept h ⟨rfl, rfl, rfl, rfl, rfl, rfl⟩ rfl rfl ⟨h.noError, h.errorCode, fun _ => rfl⟩

theorem inv_busWrite {s : State} (h : StateInv s) (off width : Nat) (x : Word) :
    StateInv (busWrite off width x s) := by
  rcases busWrite_cases off width x s with hw | ⟨r, -, -, hw⟩ <;> rw [hw]
  · exact inv_busError h
  · exact inv_of_frame (inv_writeReg h r x) rfl

theorem inv_readReg {s : State} (h : StateInv s) (r : Reg) : StateInv (readReg r s) := by
  rw [HostAccess.readReg_frame]
  exact inv_of_frame h rfl

theorem inv_busRead {s : State} (h : StateInv s) (off width : Nat) : StateInv (busRead off width s) := by
  rcases HostAccess.busRead_cases off width s with hr | ⟨r, hr⟩ <;> rw [hr]
  · exact inv_busError h
  · exact inv_readReg h r

theorem inv_hostStep {s : State} (h : StateInv s) : StateInv (hostStep s) := by
  rcases hostStep_cases s with ⟨-, hh⟩ | ⟨stmt, rest, -, hh⟩ <;> rw [hh]
  · exact h
  have hrest : StateInv { s with script := rest } := inv_of_frame h rfl
  cases stmt with
  | read off width => exact inv_busRead hrest off width
  | write off width x => exact inv_busWrite hrest off width x
  | wait =>
    rw [runStmt]
    split
    · exact inv_readReg h .status
    · exact inv_readReg hrest .status
  | hardReset => exact inv_hardReset _

/-! ### The engine's step -/

theorem matrixInv_exec {i : Instr} {s t : State} (h : MatrixInv s) (ht : exec i s = .next t) :
    MatrixInv t := by
  by_cases hi : i = .genMatrix
  · subst hi
    have hm := (frame_of_genMatrix ht).2
    exact ⟨hm ▸ Mem.wf_writeTable h.memory, fun _ a ha => by
      rw [hm, Mem.byte?_writeTable, if_pos ha]⟩
  · obtain ⟨hm, hr⟩ := matrixKept_exec ht hi
    exact matrixInv_congr h hm hr

/-- ABSORB and FINAL are accepted in an open context only (R603). -/
theorem phase_of_issueCheck {i : Instr} {s : State} (h : issueCheck i s = none)
    (hi : needsContext i = true) : s.phase = .absorb := by
  by_contra hp
  unfold issueCheck at h
  rw [if_pos (c := needsContext i = true ∧ s.phase ≠ .absorb) ⟨hi, hp⟩] at h
  split at h
  · cases h
  · split at h <;> cases h

theorem contextInv_init {s t : State} (h : exec .init s = .next t) : ContextInv t := by
  rw [frame_of_init h]
  exact ⟨nofun, fun _ => ⟨fun i _ => Vector.getElem_replicate _, rfl⟩, nofun⟩

/-- ABSORB writes no byte of the upper half. -/
theorem contextInv_absorb {s t : State} (hs : ContextInv s) (hp : s.phase = .absorb)
    (h : exec .absorb s = .next t) : ContextInv t := by
  obtain ⟨hupper, hdigest⟩ := hs.openContext hp
  obtain ⟨u, hu, -, -, hkept, -⟩ := Mixer.absorbResult s
  obtain rfl := Host.Outcome.next.inj (hu.symm.trans h)
  have hframe := frame_of_absorb h
  have hphase : u.phase = .absorb := by rw [hframe]; exact hp
  have hd : u.digest = Vector.replicate 32 0 := by rw [hframe]; exact hdigest
  refine ⟨?_, fun _ => ⟨fun i hi => (hkept i hi).trans (hupper i hi), hd⟩, ?_⟩ <;> rw [hphase] <;>
    exact nofun

/-- FINAL puts the markers into an upper half that was zero. -/
theorem contextInv_final {r : Byte} {s t : State} (hs : ContextInv s) (hp : s.phase = .absorb)
    (h : exec (.final r) s = .next t) : ContextInv t := by
  obtain ⟨hupper, -⟩ := hs.openContext hp
  obtain ⟨u, hu, hframe, -, h64, h126, hkept⟩ := Hash.finalResult s r (le_of_exec_final h)
  obtain rfl := Host.Outcome.next.inj (hu.symm.trans h)
  have hphase : u.phase = .done := by rw [hframe]
  have hd : u.digest = filter u.hs := by rw [hframe]
  refine ⟨?_, ?_, fun _ => ⟨h64, h126, fun i hi hn64 hn126 =>
    (hkept i hi hn64 hn126).trans (hupper i hi), hd⟩⟩ <;> rw [hphase] <;> exact nofun

theorem contextInv_exec {i : Instr} {s t : State} (hs : ContextInv s) (hc : issueCheck i s = none)
    (h : exec i s = .next t) : ContextInv t := by
  cases i
  case init => exact contextInv_init h
  case absorb => exact contextInv_absorb hs (phase_of_issueCheck hc rfl) h
  case final r => exact contextInv_final hs (phase_of_issueCheck hc rfl) h
  case genMatrix =>
    have hframe := (frame_of_genMatrix h).1
    refine contextInv_congr hs ?_ ?_ ?_ ?_ <;> rw [hframe]
  all_goals
    have hk := contextKept_exec h nofun nofun nofun nofun
    exact contextInv_congr hs hk.phase hk.len hk.hs hk.digest

theorem inv_exec {i : Instr} {s t : State} (hs : StateInv s) (hc : issueCheck i s = none)
    (h : exec i s = .next t) : StateInv t := by
  have hm := matrixInv_exec (matrixInv_of_inv hs) h
  have hctx := contextInv_exec (contextInv_of_inv hs) hc h
  have hframe := Completion.exec_next_frame h
  refine inv_of_parts_idle ?_ ?_ ?_ hm hctx <;> rw [hframe]
  exact ⟨hs.noError, hs.errorCode, hs.runRecord⟩

/-- Settles O56: the host's accesses keep the invariant one by one; the engine runs the accepted command in the
state in which it passes its checks. -/
theorem stepKeepsInvariant : Obligations.StepKeepsInvariant := by
  intro s t hs h
  rcases step_moves h with ⟨d, rfl⟩ | ⟨i, hp, -, ht⟩
  · exact inv_hostStep (inv_of_frame hs rfl)
  · obtain ⟨j, hd, hc⟩ := hs.accepted _ hp
    obtain rfl := Decoded.command.inj ((Encoding.decodeOfEncode i).symm.trans hd)
    exact inv_exec hs hc ht

end Sys2Proof.Laws.Invariant
end
